-- ==== Sys2Proof/Word.lean ====
section
/-! DEFINITION. The core's words: the byte, the 32-bit header field, the pixel record (00_scope R9, R14). -/

namespace Sys2Proof

/-- One byte of the source, the image store's byte view or the surface; also one pixel channel (R9). -/
abbrev Byte := BitVec 8

/-- A header width or height (R9: 32 bits, unsigned). -/
abbrev Word32 := BitVec 32

/-- A pixel: four 8-bit unsigned channels (R14); two are equal when all four channels are equal. -/
structure Pixel where
  r : Byte
  g : Byte
  b : Byte
  a : Byte
  deriving DecidableEq, Repr, Inhabited

namespace Pixel

/-- The zero entry of the index cache, `(0,0,0,0)` (R26, R100). -/
abbrev zero : Pixel := ⟨0, 0, 0, 0⟩

/-- The current pixel at decode start, `(0,0,0,255)` (R21, R100). -/
abbrev initial : Pixel := ⟨0, 0, 0, 255⟩

end Pixel

/-- The register file IDX: 64 entries of one pixel (R26). -/
abbrev IndexCache := Vector Pixel 64

end Sys2Proof
end

