-- ==== Sys2Proof/Config.lean ====
section
/-! DEFINITION. What the spec leaves open: the two configuration constants (00_scope R7, R8) and the free values
that stand for registers the spec leaves unspecified after a decode error and after RESET (R45, R184, R210). -/

namespace Sys2Proof

/-- The implementation parameters (R7, R8, R10: there are no others). A machine keeps them for ever; they stand in
State because `step` has no other argument (log entry 3). -/
structure Config where
  /-- `PIXELS_MAX`, the pixel-count ceiling of the header guard (R7). -/
  pixelsMax : Nat
  /-- `LENIENT_READ`: a failed read yields 0x00 instead of raising StreamExhausted (R8). -/
  lenientRead : Bool
  deriving DecidableEq, Repr

namespace Config

/-- R7's default ceiling and R8's normative read mode. -/
def normative : Config := { pixelsMax := 400000000, lenientRead := false }

/-! The free values (log entry 7). None has a body: each is whatever the hardware left there. Each takes the number
of the draw, so two draws of one register need not agree, and each register has a constant of its own. -/

/-- PX where R45 and R184 leave it unspecified. -/
opaque freePx : Nat → Pixel
/-- IDX[0..63] where R45 and R184 leave it unspecified. -/
opaque freeIdx : Nat → IndexCache
/-- RUN where R45 and R184 leave it unspecified. -/
opaque freeRun : Nat → BitVec 6
/-- RDCNT where R45 and R184 leave it unspecified. -/
opaque freeRdcnt : Nat → Nat
/-- POS where R45 and R184 leave it unspecified. -/
opaque freePos : Nat → Nat
/-- NPIX where R45 and R184 leave it unspecified. -/
opaque freeNpix : Nat → Nat
/-- HDR_W where R45 and R184 leave it unspecified. -/
opaque freeHdrW : Nat → Word32
/-- HDR_H where R45 and R184 leave it unspecified. -/
opaque freeHdrH : Nat → Word32
/-- HDR_CH where R45 and R184 leave it unspecified. -/
opaque freeHdrCh : Nat → Byte
/-- HDR_CS where R45 and R184 leave it unspecified. -/
opaque freeHdrCs : Nat → Byte
/-- BMP_BASE where R210 leaves it unspecified. -/
opaque freeBmpBase : Nat → Nat
/-- The bit of ALPHA_MODE where R210 leaves it unspecified. -/
opaque freeAlphaBit : Nat → Bool
/-- CPOS where R210 leaves it unspecified. -/
opaque freeCpos : Nat → Nat

end Config

end Sys2Proof
end

