-- ==== Sys2Proof/Syntax.lean ====
section
/-! DEFINITION. The instruction set: one constructor per row of spec/opcode_table.json, its operands those of the
assembler syntax of 30_encoding R83. -/

namespace Sys2Proof

/-- The six opcodes with their operands (R71, R83). A literal's bytes are channel values (R74, R75); DIFF's and
LUMA's operands are signed deltas, already without their bias (R77, R78). -/
inductive Instr where
  /-- `RGB r, g, b` (R123). -/
  | rgb (r g b : Byte)
  /-- `RGBA r, g, b, a` (R124). -/
  | rgba (r g b a : Byte)
  /-- `INDEX i`, `i` a cache entry number (R125). -/
  | index (i : BitVec 6)
  /-- `DIFF dr, dg, db`, each delta in −2..+1 (R126, 90_conflicts C1). -/
  | diff (dr dg db : Int)
  /-- `LUMA vg, drg, dbg`: `vg` the green delta, `drg` and `dbg` the red and blue deltas less `vg` (R127, R83). -/
  | luma (vg drg dbg : Int)
  /-- `RUN n`, `n` the repeats after this pixel, in 0..61 (R128). -/
  | run (n : BitVec 6)
  deriving DecidableEq, Repr

/-- The opcode alone, as dispatch selects it from the first byte (R130). -/
inductive Opcode where
  | rgb | rgba | index | diff | luma | run
  deriving DecidableEq, Repr

/-- The opcode of an instruction. -/
def Instr.opcode : Instr → Opcode
  | .rgb _ _ _ => .rgb
  | .rgba _ _ _ _ => .rgba
  | .index _ => .index
  | .diff _ _ _ => .diff
  | .luma _ _ _ => .luma
  | .run _ => .run

end Sys2Proof
end

