-- ==== Sys2Proof/WellFormed.lean ====
section
/-! DEFINITION. Which instructions have an encoding: the constraint column of 30_encoding R83. -/

namespace Sys2Proof

/-- `lo ≤ x ≤ hi`. -/
def inRange (lo hi x : Int) : Bool := decide (lo ≤ x) && decide (x ≤ hi)

/-- The constraints of R83: a DIFF delta in −2..+1 (R77), LUMA's `vg` in −32..+31 and its two other deltas in −8..+7
(R78), a RUN field in 0..61 (R79: 62 and 63 are RGB and RGBA). Literals and INDEX have none. -/
def wellFormed : Instr → Bool
  | .rgb _ _ _ => true
  | .rgba _ _ _ _ => true
  | .index _ => true
  | .diff dr dg db => inRange (-2) 1 dr && inRange (-2) 1 dg && inRange (-2) 1 db
  | .luma vg drg dbg => inRange (-32) 31 vg && inRange (-8) 7 drg && inRange (-8) 7 dbg
  | .run n => decide (n.toNat ≤ 61)

end Sys2Proof
end

