-- ==== Sys2Proof/Decode.lean ====
section
/-! DEFINITION. Decoding and encoding of the opcode stream (30_encoding R70 to R85), and the table's words. -/

namespace Sys2Proof

/-- The unsigned field of `width` bits of a byte from bit `lo` up (R11, R12). -/
def field (b : Byte) (lo width : Nat) : Nat := (b.toNat >>> lo) % 2 ^ width

/-- The 2-bit tag `b1[7:6]` (R73). -/
def tag (b1 : Byte) : Nat := field b1 6 2

/-- Opcode selection (R73, R130): the two full-byte values first, then the tag. -/
def select (b1 : Byte) : Opcode :=
  if b1 = 0xFE then .rgb
  else if b1 = 0xFF then .rgba
  else if tag b1 = 0 then .index
  else if tag b1 = 1 then .diff
  else if tag b1 = 2 then .luma
  else .run

/-- The length in bytes of the opcode that starts with `b1` (R72). -/
def opcodeLength (b1 : Byte) : Nat :=
  if b1 = 0xFE then 4
  else if b1 = 0xFF then 5
  else if tag b1 = 2 then 2
  else 1

/-- A field less its bias, a signed delta (R12, R77, R78). -/
def delta (b : Byte) (lo width bias : Nat) : Int := (field b lo width : Int) - bias

/-- Why bytes are no instruction. R81: only for want of bytes, never for a bad byte. -/
inductive DecodeError where
  /-- There is no first byte. -/
  | noFirstByte
  /-- Fewer bytes follow the first byte than its opcode has (R72). -/
  | missingExtraBytes (op : Opcode)
  deriving DecidableEq, Repr

/-- Reads one instruction off the front of a byte sequence and gives the bytes after it (R71 to R79). -/
def decode : List Byte → Except DecodeError (Instr × List Byte)
  | [] => .error .noFirstByte
  | b1 :: rest =>
    match select b1 with
    | .rgb =>
      match rest with
      | r :: g :: b :: tail => .ok (.rgb r g b, tail)
      | _ => .error (.missingExtraBytes .rgb)
    | .rgba =>
      match rest with
      | r :: g :: b :: a :: tail => .ok (.rgba r g b a, tail)
      | _ => .error (.missingExtraBytes .rgba)
    | .index => .ok (.index (BitVec.ofNat 6 (field b1 0 6)), rest)
    | .diff => .ok (.diff (delta b1 4 2 2) (delta b1 2 2 2) (delta b1 0 2 2), rest)
    | .luma =>
      match rest with
      | b2 :: tail => .ok (.luma (delta b1 0 6 32) (delta b2 4 4 8) (delta b2 0 4 8), tail)
      | [] => .error (.missingExtraBytes .luma)
    | .run => .ok (.run (BitVec.ofNat 6 (field b1 0 6)), rest)

/-- A delta with its bias added back, as an unsigned field (R83). -/
def biased (d : Int) (bias : Nat) : Nat := (d + bias).toNat

/-- The bytes of a well-formed instruction (R83's "encodes as" column). -/
def encode : Instr → List Byte
  | .rgb r g b => [0xFE, r, g, b]
  | .rgba r g b a => [0xFF, r, g, b, a]
  | .index i => [BitVec.ofNat 8 i.toNat]
  | .diff dr dg db => [BitVec.ofNat 8 (0x40 ||| biased dr 2 <<< 4 ||| biased dg 2 <<< 2 ||| biased db 2)]
  | .luma vg drg dbg =>
    [BitVec.ofNat 8 (0x80 ||| biased vg 32), BitVec.ofNat 8 (biased drg 8 <<< 4 ||| biased dbg 8)]
  | .run n => [BitVec.ofNat 8 (0xC0 ||| n.toNat)]

/-- The assembler of R83: a statement outside its constraint is refused, not encoded modulo. -/
def assemble (i : Instr) : Option (List Byte) := if wellFormed i then some (encode i) else none

/-- Byte `j` of a 32-bit value written big-endian: `j = 0` is the most significant (R57). -/
def bigEndianByte (w : Word32) (j : Nat) : Byte := BitVec.ofNat 8 (w.toNat >>> (8 * (3 - j)))

/-- Four bytes in big-endian order (R57). -/
def bigEndian (w : Word32) : List Byte := (List.range 4).map (bigEndianByte w)

/-- A 32-bit value from its four bytes, the most significant first (R57). -/
def ofBigEndian (bs : List Byte) : Word32 := BitVec.ofNat 32 (bs.foldl (fun acc b => acc * 256 + b.toNat) 0)

/-- The magic, "qoif" as a big-endian 32-bit value (R57, R103). -/
def magic : Word32 := 0x716F6966

/-- The directive `HEADER w, h, ch, cs`: the 14 header bytes (R63, R84). -/
def headerBytes (w h : Word32) (ch cs : Byte) : List Byte :=
  [0x71, 0x6F, 0x69, 0x66] ++ bigEndian w ++ bigEndian h ++ [ch, cs]

/-- The directive `PAD`: seven 0x00 and one 0x01 (R84; PRESUMED by the spec itself, G2, log entry 12). -/
def padBytes : List Byte := [0, 0, 0, 0, 0, 0, 0, 1]

/-- The bytes of an instruction whose bits are `w`, numbered as spec/opcode_table.json numbers them (first byte in
bits 7..0), followed by zero bytes up to the longest instruction, five bytes (R72). -/
def tableBytes (nbits w : Nat) : List Byte :=
  (List.range 5).map fun j => if j < nbits / 8 then BitVec.ofNat 8 (w >>> (8 * j)) else 0

/-- The instruction the decoder reads from the table's word. -/
def decodeTableWord (nbits w : Nat) : Option Instr :=
  match decode (tableBytes nbits w) with
  | .ok (i, _) => some i
  | .error _ => none

end Sys2Proof
end

