-- ==== Sys2Proof/Machine/State.lean ====
section
/-! DEFINITION. The state of the core and of its host, as plain data (10_state R20 to R45), the reasons a step can
stop, and the state after reset (70_reset_and_hazards R210). -/

namespace Sys2Proof.Machine

/-- DPHASE, the decode phase (R29). The encodings 5 to 7 are never written, so the type excludes them (U12). -/
inductive DPhase where
  /-- 0: no decode has been started since reset. -/
  | idle
  /-- 1: the header step is next. -/
  | hdr
  /-- 2: a pixel iteration is next. -/
  | pix
  /-- 3: a decode completed. -/
  | ok
  /-- 4: a decode failed. -/
  | err
  deriving DecidableEq, Repr

/-- CPHASE, the convert phase (R32). -/
inductive CPhase where
  /-- 0 -/
  | idle
  /-- 1: the allocation step is next. -/
  | alloc
  /-- 2: a copy step is next. -/
  | copy
  /-- 3: a conversion completed. -/
  | ok
  /-- 4: a conversion failed. -/
  | err
  deriving DecidableEq, Repr

/-- DERR, the error of the last decode (R30, R180). -/
inductive DecodeErr where
  | none | invalidMagic | invalidHeader | streamExhausted
  deriving DecidableEq, Repr

/-- CERR, the error of the last conversion (R33, R180). -/
inductive ConvertErr where
  | none | allocationFailed
  deriving DecidableEq, Repr

/-- ALPHA_MODE (R35): RGB is 0, alpha ignored by consumers; ARGB is 1, alpha meaningful. -/
inductive AlphaMode where
  | rgb | argb
  deriving DecidableEq, Repr

/-- The host's answer to a byte request (R41). -/
inductive ByteAnswer where
  | byte (v : Byte)
  | exhausted
  deriving DecidableEq, Repr

/-- The byte source SRC of a decode (R50): the host's answers to byte requests 0, 1, 2, .... A closed source answers
`Exhausted` to every request past the list; past the end of an open one the host has not answered (R41, U9). -/
structure Source where
  answers : List ByteAnswer
  closed : Bool
  deriving DecidableEq, Repr

/-- The host's answer to the surface request (R43): any base, or a refusal. -/
inductive AllocAnswer where
  | granted (base : Nat)
  | refused
  deriving DecidableEq, Repr

/-- The host's commands (R40). -/
inductive Command where
  | reset | startDecode | startConvert
  deriving DecidableEq, Repr

/-- One move of the host (R20, R198), or its giving the turn to the core. -/
inductive HostMove where
  /-- The host does nothing now; the core takes its enabled step, if it has one. -/
  | pass
  /-- The host issues a command (R40). -/
  | command (c : Command)
  /-- The host makes a byte source ready, or makes more answers ready (R212 step 2, R41). -/
  | supply (src : Source)
  /-- The host answers the surface request (R43). -/
  | answerAlloc (a : AllocAnswer)
  deriving DecidableEq, Repr

/-- What the host may read (R39), with the image by slot and the surface by byte offset (R214). -/
inductive StatusField where
  | dphase | derr | imgValid | hdrW | hdrH | hdrCh | hdrCs
  | cphase | cerr | bmpValid | bmpBase | alphaMode
  | imgSlot (k : Nat)
  | surfaceByte (offset : Nat)
  deriving DecidableEq, Repr

/-- A byte-addressed store: (address, byte) pairs in one canonical form, addresses strictly rising. An address that
is not listed has NO value (log entry 2), so every listed entry counts. -/
abbrev Memory := List Host.Cell

/-- The canonical form: addresses strictly rising. -/
abbrev Memory.wf (m : Memory) : Prop := m.Pairwise (fun x y => x.1 < y.1)

/-- Everything the spec gives the machine, the host's side of its interface, and one counter of the model's own. -/
structure State where
  /-- PIXELS_MAX and LENIENT_READ (R7, R8); no step changes them. -/
  cfg : Config
  /-- The host's moves still to come, the next one first (R20). -/
  host : List HostMove
  /-- SRC, the byte source (R50). -/
  src : Source
  /-- The host's answer to the surface request, once it has made one (R43). -/
  alloc : Option AllocAnswer
  /-- The number of byte requests of the decode, what the host observes of RDCNT (R44, R51). -/
  requests : Nat
  /-- The MODEL'S OWN counter: the number of the next free value (log entry 7). -/
  draws : Nat
  /-- PX, the current pixel (R21). -/
  px : Pixel
  /-- IDX, the index cache (R26). -/
  idx : IndexCache
  /-- RUN, the run counter (R25). -/
  run : BitVec 6
  /-- RDCNT, the stream read counter (R22; an exact integer, D5). -/
  rdcnt : Nat
  /-- POS, the next image-store slot (R23; an exact integer, D5). -/
  pos : Nat
  /-- NPIX, the pixel count (R24; an exact integer, D5). -/
  npix : Nat
  /-- HDR_W (R27). -/
  hdrW : Word32
  /-- HDR_H (R27). -/
  hdrH : Word32
  /-- HDR_CH (R28). -/
  hdrCh : Byte
  /-- HDR_CS (R28). -/
  hdrCs : Byte
  /-- DPHASE (R29). -/
  dphase : DPhase
  /-- DERR (R30). -/
  derr : DecodeErr
  /-- IMG_VALID (R31). -/
  imgValid : Bool
  /-- IMG, the image store, by its byte view (R53, R54). -/
  img : Memory
  /-- CPHASE (R32). -/
  cphase : CPhase
  /-- CERR (R33). -/
  cerr : ConvertErr
  /-- BMP_VALID (R34). -/
  bmpValid : Bool
  /-- BMP_BASE (R34), the byte address of the granted surface. -/
  bmpBase : Nat
  /-- ALPHA_MODE (R35). -/
  alphaMode : AlphaMode
  /-- CPOS, the next pixel to copy (R36; an exact integer, D5). -/
  cpos : Nat
  /-- BMP, the surface's byte space, by absolute byte address (R55). -/
  bmp : Memory
  deriving DecidableEq, Repr

/-- Why the machine stops. None stands for one of the spec's four errors: those are states (R184, R162). -/
inductive Fault where
  /-- No step of the core is enabled and the host makes no further move (R186, R197). Raised by `coreStep`. The spec
  gives the core no step here, so it is safe. -/
  | noStepEnabled
  /-- The core waits for a byte answer the host never gives (R41, U9: stuck). Raised by `coreStep`. Safe. -/
  | awaitingByte
  /-- The core waits for a surface answer the host never gives (R199, U9: stuck). Raised by `allocStep`. Safe. -/
  | awaitingAlloc
  /-- A copy step found its image slot without a value. Raised by `copyStep`; no run from reset reaches it
  (the invariant of Safety.lean). Safe. -/
  | imageSlotUnwritten
  /-- The host read a field outside its "readable when" condition (R39, U2, U3). Raised by `hostRead`. Safe. -/
  | notReadable (f : StatusField)
  deriving DecidableEq, Repr

/-- What the model gives no meaning. -/
inductive Refusal where
  /-- An instruction that has no meaning yet; raised by `exec` only. Safe. -/
  | notModelled (mnemonic : String)
  /-- A command issued while it is not enabled has no step (R40, U10). Raised by `issue`. Safe. -/
  | commandNotEnabled (c : Command)
  /-- Fetched bytes that do not decode; never raised, since decoding fails only for want of bytes (R81) and the
  fetch reads as many as the first byte asks for (R72). Raised by `iteration`. Safe. -/
  | undecodable (e : DecodeError)
  deriving DecidableEq, Repr

/-- The machine right after power-on, which is a RESET (R210, R45). The six status fields are the spec's; the host has
made no move. Every register that R45 calls unspecified holds zero (DESIGN CHOICE, unsafe, log entry 1); neither store
has a value at any address (log entry 2). -/
def State.reset : State where
  cfg := Config.normative
  host := []
  src := { answers := [], closed := false }
  alloc := none
  requests := 0
  draws := 0
  px := Pixel.zero
  idx := Vector.replicate 64 Pixel.zero
  run := 0
  rdcnt := 0
  pos := 0
  npix := 0
  hdrW := 0
  hdrH := 0
  hdrCh := 0
  hdrCs := 0
  dphase := .idle
  derr := .none
  imgValid := false
  img := []
  cphase := .idle
  cerr := .none
  bmpValid := false
  bmpBase := 0
  alphaMode := .rgb
  cpos := 0
  bmp := []

end Sys2Proof.Machine
end

