-- ==== Sys2Proof/Machine/Ops.lean ====
section
/-! DEFINITION. The named operations over the two stores, the index cache and the registers, and the entry of the
core's errors (20_memory R53 to R61, 41_pixel_opcodes R122 and R133, 60_exceptions R184 and R185). There is no return
from an error (R189): START_DECODE, START_CONVERT and RESET leave it (Header.lean, Convert.lean, Reset.lean). -/

namespace Sys2Proof.Machine

/-! ## A store: bytes by address -/

/-- The byte at an address, if one has been written (log entry 2). -/
def Memory.read : Memory → Nat → Option Byte
  | [], _ => none
  | c :: m, a => if c.1 = a then some c.2 else Memory.read m a

/-- Writes one byte, keeping the addresses strictly rising. -/
def Memory.write : Memory → Nat → Byte → Memory
  | [], a, v => [(a, v)]
  | c :: m, a, v =>
    if a < c.1 then (a, v) :: c :: m
    else if a = c.1 then (a, v) :: m
    else c :: Memory.write m a v

/-- Writes four bytes at `a .. a+3`, the access width of both stores (R61). -/
def Memory.writeFour (m : Memory) (a : Nat) (b0 b1 b2 b3 : Byte) : Memory :=
  Memory.write (Memory.write (Memory.write (Memory.write m a b0) (a + 1) b1) (a + 2) b2) (a + 3) b3

/-- Takes the value from every address of `lo .. lo+n−1`: a region whose content is not defined. -/
def Memory.forget (m : Memory) (lo n : Nat) : Memory :=
  m.filter fun c => !(decide (lo ≤ c.1) && decide (c.1 < lo + n))

/-! ## The image store and the surface -/

/-- The first byte of image-store slot `k` in the byte view (R54). -/
def slotAddr (k : Nat) : Nat := 4 * k

/-- `MemWrite(IMG + k, 1, p)`: one whole slot, bytes r, g, b, a (R53, R54). -/
def writeSlot (m : Memory) (k : Nat) (p : Pixel) : Memory :=
  Memory.writeFour m (slotAddr k) p.r p.g p.b p.a

/-- `MemRead(IMG + k, 1)`: the pixel in a slot all four of whose bytes have a value (R53, R54). -/
def readSlot (m : Memory) (k : Nat) : Option Pixel :=
  match Memory.read m (slotAddr k), Memory.read m (slotAddr k + 1), Memory.read m (slotAddr k + 2),
      Memory.read m (slotAddr k + 3) with
  | some r, some g, some b, some a => some ⟨r, g, b, a⟩
  | _, _, _, _ => none

/-- The first byte of surface pixel `k` of a surface at `base` (R55, R163: no padding between rows). -/
def surfaceAddr (base k : Nat) : Nat := base + 4 * k

/-- The surface's size in bytes (R43, R55). -/
def surfaceSize (npix : Nat) : Nat := 4 * npix

/-- The permute of one pixel: the surface's four bytes are b, g, r, a (R59, R164, 90_conflicts C3). -/
def writeSurfacePixel (m : Memory) (base k : Nat) (p : Pixel) : Memory :=
  Memory.writeFour m (surfaceAddr base k) p.b p.g p.r p.a

/-! ## The index cache -/

/-- `IDX[i]` (R26). -/
def idxRead (idx : IndexCache) (i : BitVec 6) : Pixel := idx[i.toNat]'i.isLt

/-- `IDX[i] <- p` (R26). -/
def idxWrite (idx : IndexCache) (i : BitVec 6) (p : Pixel) : IndexCache := idx.set i.toNat p i.isLt

/-! ## Errors -/

/-- What is unspecified after a decode error (R184, R45): PX, IDX, RUN, RDCNT, POS, NPIX and the header registers take
free values (log entry 7); no byte of the image store has a value (U6). -/
def forgetDecodeState (s : State) : State :=
  { s with
    px := Config.freePx s.draws
    idx := Config.freeIdx s.draws
    run := Config.freeRun s.draws
    rdcnt := Config.freeRdcnt s.draws
    pos := Config.freePos s.draws
    npix := Config.freeNpix s.draws
    hdrW := Config.freeHdrW s.draws
    hdrH := Config.freeHdrH s.draws
    hdrCh := Config.freeHdrCh s.draws
    hdrCs := Config.freeHdrCs s.draws
    img := []
    draws := s.draws + 1 }

/-- `raise E()` in the header step or an iteration: decode error entry (R184). -/
def raiseDecode (e : DecodeErr) (s : State) : State :=
  { forgetDecodeState s with derr := e, dphase := .err, imgValid := false }

/-- AllocationFailed: convert error entry (R162, R185). It changes no decode-side state. -/
def raiseConvert (s : State) : State :=
  { s with cerr := .allocationFailed, cphase := .err }

end Sys2Proof.Machine
end

