-- ==== Sys2Proof/Machine/Operands.lean ====
section
/-! DEFINITION. Operand arithmetic: the modulo-256 lanes, the index hash, the index update and the two ways an opcode
produces its pixel (00_scope R12, 41_pixel_opcodes R121, R122, R132). -/

namespace Sys2Proof.Machine

/-- The unique byte congruent to `x` modulo 256, for negative `x` too (R12). -/
def mod256 (x : Int) : Byte := BitVec.ofInt 8 x

/-- One lane of DIFF or LUMA: the old value plus a signed delta, modulo 256 (R132). -/
def addLane (old : Byte) (d : Int) : Byte := mod256 (old.toNat + d)

/-- Three lanes at once, each from its own old value; alpha is kept (R132). -/
def addDeltas (p : Pixel) (dr dg db : Int) : Pixel :=
  ⟨addLane p.r dr, addLane p.g dg, addLane p.b db, p.a⟩

/-- The index hash (R121). -/
def pixelHash (p : Pixel) : BitVec 6 :=
  BitVec.ofNat 6 ((3 * p.r.toNat + 5 * p.g.toNat + 7 * p.b.toNat + 11 * p.a.toNat) % 64)

/-- `IndexUpdate()`: `IDX[hash(PX)] <- PX` (R122). -/
def indexUpdate (s : State) : State := { s with idx := idxWrite s.idx (pixelHash s.px) s.px }

/-- `PX <- p`. -/
def setPx (p : Pixel) (s : State) : State := { s with px := p }

end Sys2Proof.Machine
end

