-- ==== Sys2Proof/Machine/Flags.lean ====
section
/-! DEFINITION. Status computations. The core has no arithmetic flags (10_state R37): its only flags are IMG_VALID,
BMP_VALID and ALPHA_MODE, with the phase and error fields. -/

namespace Sys2Proof.Machine

/-- The 3-bit encoding of DPHASE (R29). -/
def DPhase.code : DPhase → BitVec 3
  | .idle => 0
  | .hdr => 1
  | .pix => 2
  | .ok => 3
  | .err => 4

/-- The 3-bit encoding of CPHASE (R32). -/
def CPhase.code : CPhase → BitVec 3
  | .idle => 0
  | .alloc => 1
  | .copy => 2
  | .ok => 3
  | .err => 4

/-- The error code in DERR (R30, R180). -/
def DecodeErr.code : DecodeErr → BitVec 3
  | .none => 0
  | .invalidMagic => 1
  | .invalidHeader => 2
  | .streamExhausted => 3

/-- The error code in CERR (R33, R180). -/
def ConvertErr.code : ConvertErr → BitVec 3
  | .none => 0
  | .allocationFailed => 4

/-- The bit of ALPHA_MODE (R35). -/
def AlphaMode.code : AlphaMode → BitVec 1
  | .rgb => 0
  | .argb => 1

/-- The alpha mode with a given bit (R35). -/
def AlphaMode.ofBit : Bool → AlphaMode
  | false => .rgb
  | true => .argb

/-- The alpha mode a conversion reports: ARGB for four channels, RGB for three (R165; the header check leaves no
other count, R105). -/
def alphaModeOf (hdrCh : Byte) : AlphaMode := if hdrCh = 4 then .argb else .rgb

/-- End of decode, at the end of every iteration (R134). -/
def endIteration (s : State) : State :=
  if s.pos = s.npix then { s with imgValid := true, dphase := .ok } else s

/-- Conversion complete, in the copy step that makes CPOS = NPIX (R166). -/
def endCopy (s : State) : State :=
  if s.cpos = s.npix then
    { s with alphaMode := alphaModeOf s.hdrCh, bmpValid := true, cphase := .ok }
  else s

/-- `Emit(p)` (R133). -/
def emit (p : Pixel) (s : State) : State :=
  { s with img := writeSlot s.img s.pos p, pos := s.pos + 1 }

/-- The end of every iteration: Emit(PX), then the end-of-decode test (R131, R133, R134). -/
def emitPx (s : State) : State := endIteration (emit s.px s)

/-- What RGB, RGBA, INDEX, DIFF and LUMA do with their new pixel: PX takes it, the index is updated with it, it is
emitted (R122, R217: in this order). -/
def producePixel (p : Pixel) (s : State) : State := emitPx (indexUpdate (setPx p s))

end Sys2Proof.Machine
end

