-- ==== Sys2Proof/Machine/Convert.lean ====
section
/-! DEFINITION. The permuter: START_CONVERT, the allocation step and the copy step (42_bitmap_converter R160 to
R167). -/

namespace Sys2Proof.Machine

/-- When START_CONVERT is enabled (R40, R160). -/
def startConvertEnabled (s : State) : Bool :=
  s.imgValid && !(decide (s.cphase = .alloc) || decide (s.cphase = .copy))

/-- START_CONVERT (R160). -/
def startConvert (s : State) : State :=
  { s with bmpValid := false, cerr := .none, cpos := 0, cphase := .alloc }

/-- The request the core puts to the host's allocator (R161). -/
structure AllocRequest where
  width : Word32
  height : Word32
  bitsPerPixel : Nat
  topDown : Bool
  size : Nat
  deriving DecidableEq, Repr

/-- The surface request, outstanding while CPHASE is ALLOC (R43, R161). -/
def allocRequest (s : State) : Option AllocRequest :=
  if s.cphase = .alloc then
    some { width := s.hdrW, height := s.hdrH, bitsPerPixel := 32, topDown := true, size := surfaceSize s.npix }
  else none

/-- A surface is granted: its base is taken, and its bytes hold no defined content yet (R161, U14, log entry 9). -/
def grantSurface (base : Nat) (s : State) : State :=
  { s with
    bmpBase := base
    cphase := .copy
    bmp := Memory.forget s.bmp base (surfaceSize s.npix)
    alloc := none }

/-- The allocation step (R161): it waits for the host's answer, any answer (R43, U7). -/
def allocStep (s : State) : Host.Outcome State Fault Refusal :=
  match s.alloc with
  | none => .fault .awaitingAlloc
  | some (.granted base) => .next (grantSurface base s)
  | some .refused => .next (raiseConvert { s with alloc := none })

/-- The copy of one pixel (R164): the surface's bytes, then CPOS, then the completion test (R166). -/
def copyPixel (p : Pixel) (s : State) : State :=
  endCopy { s with bmp := writeSurfacePixel s.bmp s.bmpBase s.cpos p, cpos := s.cpos + 1 }

/-- The copy step (R164). It cannot fail where the image store holds the Image; elsewhere (no run from reset reaches
it) the slot's missing value is a fault. -/
def copyStep (s : State) : Host.Outcome State Fault Refusal :=
  match readSlot s.img s.cpos with
  | some p => .next (copyPixel p s)
  | none => .fault .imageSlotUnwritten

end Sys2Proof.Machine
end

