-- ==== Sys2Proof/Machine/Opcodes.lean ====
section
/-! DEFINITION. The meanings of the six opcodes (41_pixel_opcodes R123 to R128) and the repeat iteration (R129). The
bytes of the opcode have been read when a meaning runs (Fetch.lean): a missing byte raises StreamExhausted there. No
meaning touches a flag of its own (R37). -/

namespace Sys2Proof.Machine

/-- RGB (R123): r, g, b are overwritten, alpha is kept. -/
def execRgb (r g b : Byte) (s : State) : Host.Outcome State Fault Refusal :=
  .next (producePixel ⟨r, g, b, s.px.a⟩ s)

/-- RGBA (R124): all four channels are overwritten, whatever HDR_CH is (R109). -/
def execRgba (r g b a : Byte) (s : State) : Host.Outcome State Fault Refusal :=
  .next (producePixel ⟨r, g, b, a⟩ s)

/-- INDEX (R125): the entry is read before the index update writes (R217). -/
def execIndex (i : BitVec 6) (s : State) : Host.Outcome State Fault Refusal :=
  .next (producePixel (idxRead s.idx i) s)

/-- DIFF (R126). -/
def execDiff (dr dg db : Int) (s : State) : Host.Outcome State Fault Refusal :=
  .next (producePixel (addDeltas s.px dr dg db) s)

/-- LUMA (R127): red and blue use `vg`, not the updated green (R217); `drg` is `b2[7:4] − 8`, `dbg` is
`b2[3:0] − 8` (R78). -/
def execLuma (vg drg dbg : Int) (s : State) : Host.Outcome State Fault Refusal :=
  .next (producePixel (addDeltas s.px (vg + drg) vg (vg + dbg)) s)

/-- RUN (R128): PX is unchanged and the index is not updated (90_conflicts C9). -/
def execRun (n : BitVec 6) (s : State) : Host.Outcome State Fault Refusal :=
  .next (emitPx { s with run := n })

/-- The repeat iteration (R129): no byte is read, the index is not updated. -/
def repeatPixel (s : State) : State := emitPx { s with run := s.run - 1 }

end Sys2Proof.Machine
end

