-- ==== Sys2Proof/Machine/Fetch.lean ====
section
/-! DEFINITION. Reading the byte source (20_memory R50 to R52, 40_header R102) and fetching one opcode's bytes
(30_encoding R72). -/

namespace Sys2Proof.Machine

/-- What a part of a step that reads the source comes to: a value and the state after the reads; an error, with the
state after its entry; or a wait for an answer the host has not made, in which the step has no effect (R41, R220). -/
inductive Port (α : Type) where
  | got (v : α) (s : State)
  | raised (s : State)
  | waiting
  deriving Repr

/-- Goes on with a value that was read. -/
def Port.andThen {α β : Type} (x : Port α) (f : α → State → Port β) : Port β :=
  match x with
  | .got v s => f v s
  | .raised s => .raised s
  | .waiting => .waiting

/-- The host's answer to byte request number `k` (R50, R52). -/
def Source.answer (src : Source) (k : Nat) : Option ByteAnswer :=
  match src.answers[k]? with
  | some a => some a
  | none => if src.closed then some .exhausted else none

/-- The state after `n` more byte requests (R22, R51). -/
def consume (n : Nat) (s : State) : State :=
  { s with rdcnt := s.rdcnt + n, requests := s.requests + n }

/-- One byte request: the host's answer to request number RDCNT, and the count (R52, first two lines). -/
def requestByte (s : State) : Port ByteAnswer :=
  match Source.answer s.src s.rdcnt with
  | some a => .got a (consume 1 s)
  | none => .waiting

/-- `ReadByte()` (R52, R183): a missing byte raises StreamExhausted, or reads 0x00 when LENIENT_READ is true. -/
def readByte (s : State) : Port Byte :=
  (requestByte s).andThen fun a t =>
    match a with
    | .byte v => .got v t
    | .exhausted => if t.cfg.lenientRead then .got 0 t else .raised (raiseDecode .streamExhausted t)

/-- One byte of the magic: a missing one is InvalidMagic, whatever LENIENT_READ is (R102, 90_conflicts C4). -/
def readMagicByte (s : State) : Port Byte :=
  (requestByte s).andThen fun a t =>
    match a with
    | .byte v => .got v t
    | .exhausted => .raised (raiseDecode .invalidMagic t)

/-- `n` bytes in stream order with a given byte read (R58). -/
def readMany (read : State → Port Byte) : Nat → State → Port (List Byte)
  | 0, s => .got [] s
  | n + 1, s =>
    (read s).andThen fun b t => (readMany read n t).andThen fun bs u => .got (b :: bs) u

/-- `n` calls of `ReadByte()`. -/
def readBytes (n : Nat) (s : State) : Port (List Byte) := readMany readByte n s

/-- The bytes of the next opcode: the first, then as many more as its length asks for (R70, R72). -/
def fetch (s : State) : Port (List Byte) :=
  (readByte s).andThen fun b1 t =>
    (readBytes (opcodeLength b1 - 1) t).andThen fun extra u => .got (b1 :: extra) u

end Sys2Proof.Machine
end

