-- ==== Sys2Proof/Machine/Header.lean ====
section
/-! DEFINITION. START_DECODE and the header step (40_header R100 to R107). -/

namespace Sys2Proof.Machine

/-- When START_DECODE is enabled (R40, R100). -/
def startDecodeEnabled (s : State) : Bool :=
  (decide (s.dphase = .idle) || decide (s.dphase = .ok) || decide (s.dphase = .err)) &&
    !(decide (s.cphase = .alloc) || decide (s.cphase = .copy))

/-- START_DECODE (R100). It reads no byte; it leaves the stores and the permuter as they are (R45). NPIX and the four
header registers are unspecified from here until the header is accepted or loaded (R24, R45): the model keeps what they
held (DESIGN CHOICE, unsafe, log entry 13). The host's count of requests starts again (R51, log entry 6). The
byte source is the one the host last made ready: with no new supply its answers serve again from request 0 (DESIGN
CHOICE, safe, log entry 16). -/
def startDecode (s : State) : State :=
  { s with
    imgValid := false
    derr := .none
    px := Pixel.initial
    idx := Vector.replicate 64 Pixel.zero
    run := 0
    rdcnt := 0
    requests := 0
    pos := 0
    dphase := .hdr }

/-- The five header checks (R105); `/` is floor division (D8), and the guard is evaluated only for a width that is
not zero. -/
def headerOk (pixelsMax : Nat) (w h : Word32) (ch cs : Byte) : Bool :=
  decide (w.toNat ≠ 0) && decide (h.toNat ≠ 0) && (decide (ch = 3) || decide (ch = 4)) &&
    (decide (cs = 0) || decide (cs = 1)) && decide (h.toNat < pixelsMax / w.toNat)

/-- The magic (R102, R103). -/
def readMagic (s : State) : Port Unit :=
  (readMany readMagicByte 4 s).andThen fun bs t =>
    if ofBigEndian bs = magic then .got () t else .raised (raiseDecode .invalidMagic t)

/-- The header registers from source bytes 4..13: width, height, channels, colour space, big-endian (R57, R104). -/
def loadFields (bs : List Byte) (s : State) : State :=
  { s with
    hdrW := ofBigEndian (bs.take 4)
    hdrH := ofBigEndian ((bs.drop 4).take 4)
    hdrCh := bs.getD 8 0
    hdrCs := bs.getD 9 0 }

/-- The ten field bytes, all read before any check (R104, D9). -/
def readFields (s : State) : Port Unit :=
  (readBytes 10 s).andThen fun bs t => .got () (loadFields bs t)

/-- The checks and the accept (R105, R107). NPIX is the exact product (R106). -/
def acceptHeader (s : State) : State :=
  if headerOk s.cfg.pixelsMax s.hdrW s.hdrH s.hdrCh s.hdrCs then
    { s with npix := s.hdrW.toNat * s.hdrH.toNat, dphase := .pix }
  else raiseDecode .invalidHeader s

/-- The header step, one step of the core (R101). -/
def headerStep (s : State) : Host.Outcome State Fault Refusal :=
  match (readMagic s).andThen fun _ t => readFields t with
  | .got _ t => .next (acceptHeader t)
  | .raised t => .next t
  | .waiting => .fault .awaitingByte

end Sys2Proof.Machine
end

