-- ==== Sys2Proof/Machine/Reset.lean ====
section
/-! DEFINITION. The RESET command (70_reset_and_hazards R210). Power-on is `State.reset` (State.lean). -/

namespace Sys2Proof.Machine

/-- RESET: six status fields are set, the outstanding request is withdrawn (an answer made to it is gone), and every
other register and the image store are unspecified (R210, R45, log entries 7 and 10). The surface's bytes are the
host's and stay. -/
def resetCommand (s : State) : State :=
  { forgetDecodeState s with
    dphase := .idle
    derr := .none
    imgValid := false
    cphase := .idle
    cerr := .none
    bmpValid := false
    bmpBase := Config.freeBmpBase s.draws
    alphaMode := AlphaMode.ofBit (Config.freeAlphaBit s.draws)
    cpos := Config.freeCpos s.draws
    alloc := none }

end Sys2Proof.Machine
end

