-- ==== Sys2Proof/Machine/Engine.lean ====
section
/-! DEFINITION. The core's own step, the host's moves, and whose turn it is (10_state R20, R40; 41_pixel_opcodes R131;
70_reset_and_hazards R220). -/

namespace Sys2Proof.Machine

/-- The part of an iteration that runs an opcode: its bytes are read, decoded and executed (R131). -/
def opcodeIteration (s : State) : Host.Outcome State Fault Refusal :=
  match fetch s with
  | .waiting => .fault .awaitingByte
  | .raised t => .next t
  | .got bytes t =>
    match decode bytes with
    | .ok (i, _) => exec i t
    | .error e => .refused (.undecodable e)

/-- One pixel iteration (R120, R131): a repeat while RUN > 0, else an opcode. -/
def iteration (s : State) : Host.Outcome State Fault Refusal :=
  if s.run = 0 then opcodeIteration s else .next (repeatPixel s)

/-- The step of the core that is enabled, if one is (R220). The two units never run together (R32); in a state that
breaks this, which no run reaches, the decode engine goes first (log entry 11). -/
def coreStep (s : State) : Host.Outcome State Fault Refusal :=
  match s.dphase, s.cphase with
  | .hdr, _ => headerStep s
  | .pix, _ => iteration s
  | _, .alloc => allocStep s
  | _, .copy => if s.cpos < s.npix then copyStep s else .fault .noStepEnabled
  | _, _ => .fault .noStepEnabled

/-- The core has no step now, but may have one after a move of the host (R41, R197). -/
def Fault.isHold : Fault → Bool
  | .noStepEnabled | .awaitingByte | .awaitingAlloc => true
  | .imageSlotUnwritten | .notReadable _ => false

/-- The host issues a command (R40); one that is not enabled has no step (U10). -/
def issue (c : Command) (s : State) : Host.Outcome State Fault Refusal :=
  match c with
  | .reset => .next (resetCommand s)
  | .startDecode => if startDecodeEnabled s then .next (startDecode s) else .refused (.commandNotEnabled c)
  | .startConvert => if startConvertEnabled s then .next (startConvert s) else .refused (.commandNotEnabled c)

/-- The core's turn: its step, or no change while it has none (R41, R197: it holds its state). -/
def coreTurn (s : State) : Host.Outcome State Fault Refusal :=
  match coreStep s with
  | .fault f => if f.isHold then .next s else .fault f
  | o => o

/-- One move of the host. A second answer to a surface request that the allocation step has not yet taken replaces the
first (DESIGN CHOICE, safe, log entry 15). A supply replaces the whole source, the answers that a still waiting step has not
yet taken among it (DESIGN CHOICE, safe, log entry 18). -/
def hostMove (m : HostMove) (s : State) : Host.Outcome State Fault Refusal :=
  match m with
  | .pass => coreTurn s
  | .command c => issue c s
  | .supply src => .next { s with src := src }
  | .answerAlloc a => .next { s with alloc := some a }

/-- Whose move it is: the host's next move if it has one, else the core's step (log entry 5). -/
def nextMove (s : State) : Host.Outcome State Fault Refusal :=
  match s.host with
  | [] => coreStep s
  | m :: rest => hostMove m { s with host := rest }

/-- A source that gives the answers of `src` to the requests before number `k` and then the bytes `bs`. -/
def Source.withBytes (src : Source) (k : Nat) (bs : List Byte) : Source :=
  { src with
    answers := ((List.range k).map fun j => (Source.answer src j).getD .exhausted) ++ bs.map ByteAnswer.byte }

/-- `s` made ready to run an opcode of the bytes `bs` in its next step: the bytes stand at source byte RDCNT, the
decode is in its pixel loop with no repeats left, and the host leaves the turn to the core. -/
def withFetchBytes (s : State) (bs : List Byte) : State :=
  { s with
    host := []
    src := Source.withBytes s.src s.rdcnt bs
    run := 0
    dphase := .pix }

end Sys2Proof.Machine
end

