-- ==== Sys2Proof/Machine/Step.lean ====
section
/-! DEFINITION. One step of the machine, and the placing of an instruction where the next step fetches it. -/

namespace Sys2Proof.Machine

/-- One step: the host's next move, or the core's step (70_reset_and_hazards R220). -/
def step (s : State) : Host.Outcome State Fault Refusal := nextMove s

/-- `s` with the table's instruction of bits `w` as source byte RDCNT onwards, ready to be run by the next step. -/
def State.withFetchWord (s : State) (nbits w : Nat) : State := withFetchBytes s (tableBytes nbits w)

end Sys2Proof.Machine
end

