-- ==== Sys2Proof/Machine/View.lean ====
section
/-! DEFINITION. What the host reads: the status view (10_state R39), the surface (R214) and the observation at the end
of an operation (70_reset_and_hazards R222). -/

namespace Sys2Proof.Machine

/-- The value of a status field, by its width (R39). -/
inductive StatusValue where
  | bits3 (v : BitVec 3)
  | bit (v : Bool)
  | byte (v : Byte)
  | word (v : Word32)
  | handle (v : Nat)
  | alpha (v : BitVec 1)
  | pixel (p : Pixel)
  deriving DecidableEq, Repr

/-- The "readable when" column of R39; the surface is readable when BMP_VALID is 1 (R214). The spec says nothing of a
surface read at an offset of 4 * NPIX or more: the model sets no bound, and such a read gives the byte the permuter last
left at that address, if any (DESIGN CHOICE, unsafe, log entry 14). -/
def readable (f : StatusField) (s : State) : Bool :=
  match f with
  | .dphase | .derr | .imgValid | .cphase | .cerr | .bmpValid => true
  | .hdrW | .hdrH | .hdrCh | .hdrCs => s.imgValid
  | .imgSlot k => s.imgValid && decide (k < s.npix)
  | .bmpBase | .alphaMode | .surfaceByte _ => s.bmpValid

/-- A store's content, where it has one. -/
def ofStore {α : Type} (f : StatusField) (v : Option α) (k : α → StatusValue) : Except Fault StatusValue :=
  match v with
  | some x => .ok (k x)
  | none => .error (.notReadable f)

/-- The value behind a field, whatever its "readable when" says. -/
def statusValue (f : StatusField) (s : State) : Except Fault StatusValue :=
  match f with
  | .dphase => .ok (.bits3 s.dphase.code)
  | .derr => .ok (.bits3 s.derr.code)
  | .imgValid => .ok (.bit s.imgValid)
  | .hdrW => .ok (.word s.hdrW)
  | .hdrH => .ok (.word s.hdrH)
  | .hdrCh => .ok (.byte s.hdrCh)
  | .hdrCs => .ok (.byte s.hdrCs)
  | .cphase => .ok (.bits3 s.cphase.code)
  | .cerr => .ok (.bits3 s.cerr.code)
  | .bmpValid => .ok (.bit s.bmpValid)
  | .bmpBase => .ok (.handle s.bmpBase)
  | .alphaMode => .ok (.alpha s.alphaMode.code)
  | .imgSlot k => ofStore f (readSlot s.img k) .pixel
  | .surfaceByte o => ofStore f (Memory.read s.bmp (s.bmpBase + o)) .byte

/-- A read by the host (R39): it has a value only where the field is readable (U2, U3). It changes no state. -/
def hostRead (f : StatusField) (s : State) : Except Fault StatusValue :=
  if readable f s then statusValue f s else .error (.notReadable f)

/-- The Image a successful decode leaves (R222). -/
structure Image where
  width : Word32
  height : Word32
  channels : Byte
  colourSpace : Byte
  pixels : List (Option Pixel)
  deriving DecidableEq, Repr

/-- The observation of an ended decode (R222): the Image only when DERR is 0; none while no decode has ended. -/
def observeDecode (s : State) : Option (DecodeErr × Bool × Option Image) :=
  match s.dphase with
  | .ok =>
    some (s.derr, s.imgValid,
      some { width := s.hdrW, height := s.hdrH, channels := s.hdrCh, colourSpace := s.hdrCs
             pixels := (List.range s.npix).map (readSlot s.img) })
  | .err => some (s.derr, s.imgValid, none)
  | _ => none

/-- The observation of an ended conversion (R222): alpha mode and surface bytes only when CERR is 0. The surface's size is
taken from the present NPIX, also where a later START_DECODE has made NPIX another image's (DESIGN CHOICE, unsafe, log
entry 17). -/
def observeConvert (s : State) : Option (ConvertErr × Bool × Option (AlphaMode × List (Option Byte))) :=
  match s.cphase with
  | .ok =>
    some (s.cerr, s.bmpValid,
      some (s.alphaMode, (List.range (surfaceSize s.npix)).map fun j => Memory.read s.bmp (s.bmpBase + j)))
  | .err => some (s.cerr, s.bmpValid, none)
  | _ => none

end Sys2Proof.Machine
end

