-- ==== Sys2Proof/Safety.lean ====
section
/-! DEFINITION. The terms claims are stated in: what a source supplies, what an opcode changes and leaves, what an
error leaves, and the invariants of the machine. -/

namespace Sys2Proof.Machine

/-! ## What the source supplies -/

/-- The read `k` bytes ahead of RDCNT gives `v`: the host answers `Byte(v)`, or, under LENIENT_READ = true, the byte is
missing and reads 0x00 (R52, R137). -/
abbrev Supplies (s : State) (k : Nat) (v : Byte) : Prop :=
  Source.answer s.src (s.rdcnt + k) = some (.byte v) ∨
    (Source.answer s.src (s.rdcnt + k) = some .exhausted ∧ s.cfg.lenientRead = true ∧ v = 0)

/-- The host answers `Byte(v)` to the read `k` bytes ahead. -/
abbrev Answers (s : State) (k : Nat) (v : Byte) : Prop :=
  Source.answer s.src (s.rdcnt + k) = some (.byte v)

/-- The host answers `Exhausted` to the read `k` bytes ahead. -/
abbrev Ends (s : State) (k : Nat) : Prop := Source.answer s.src (s.rdcnt + k) = some .exhausted

/-- The host has not answered the read `k` bytes ahead (R41). -/
abbrev Unanswered (s : State) (k : Nat) : Prop := Source.answer s.src (s.rdcnt + k) = none

/-- The reads ahead give the bytes of `bs`, one after another. -/
def SuppliesAll (s : State) (bs : List Byte) : Prop :=
  ∀ k v, bs[k]? = some v → Supplies s k v

/-- The core's turn, and its next step is an iteration that reads an opcode (R131). -/
abbrev OpcodeTurn (s : State) : Prop := s.host = [] ∧ s.dphase = .pix ∧ s.run = 0

/-- The core's turn, and its next step is the header step (R101). -/
abbrev HeaderTurn (s : State) : Prop := s.host = [] ∧ s.dphase = .hdr

/-- The core waits, with no effect: alone it stops by the name `f`, and given the turn it leaves the state as it is (R41,
R220; the stop is the model's, log entry 5). The host's moves of `s` itself do not matter. -/
def Waits (f : Fault) (s : State) : Prop :=
  step { s with host := [] } = .fault f ∧
    ∀ rest, step { s with host := .pass :: rest } = .next { s with host := rest }

/-! ## What an opcode changes and leaves -/

/-- The index update (R122): entry `hash(PX)` holds the new PX, every other entry is unchanged. -/
def Indexed (s t : State) : Prop :=
  ∀ i, idxRead t.idx i = if i = pixelHash t.px then t.px else idxRead s.idx i

/-- Emit and the end-of-decode test (R133, R134): slot POS holds the new PX, every byte of the image store outside that
slot is unchanged, POS goes on by one, and the decode ends exactly when POS reaches NPIX. -/
def Emitted (s t : State) : Prop :=
  readSlot t.img s.pos = some t.px ∧
    (∀ a, a < slotAddr s.pos ∨ slotAddr s.pos + 4 ≤ a → Memory.read t.img a = Memory.read s.img a) ∧
    t.pos = s.pos + 1 ∧
    (s.pos + 1 = s.npix → t.imgValid = true ∧ t.dphase = .ok) ∧
    (s.pos + 1 ≠ s.npix → t.imgValid = s.imgValid ∧ t.dphase = s.dphase)

/-- What belongs to the configuration, the host and the permuter is unchanged. -/
def KeepsConvertSide (s t : State) : Prop :=
  t.cfg = s.cfg ∧ t.host = s.host ∧ t.src = s.src ∧ t.alloc = s.alloc ∧
    t.cphase = s.cphase ∧ t.cerr = s.cerr ∧ t.bmpValid = s.bmpValid ∧ t.bmpBase = s.bmpBase ∧
    t.alphaMode = s.alphaMode ∧ t.cpos = s.cpos ∧ ∀ a, Memory.read t.bmp a = Memory.read s.bmp a

/-- NPIX, the header registers and DERR are unchanged. -/
def KeepsHeader (s t : State) : Prop :=
  t.npix = s.npix ∧ t.hdrW = s.hdrW ∧ t.hdrH = s.hdrH ∧ t.hdrCh = s.hdrCh ∧ t.hdrCs = s.hdrCs ∧ t.derr = s.derr

/-- The frame of every opcode's meaning: all but PX, IDX, RUN, POS, the image store, IMG_VALID and DPHASE. -/
def OpcodeFrame (s t : State) : Prop :=
  KeepsConvertSide s t ∧ KeepsHeader s t ∧ t.rdcnt = s.rdcnt ∧ t.requests = s.requests ∧ t.draws = s.draws

/-- What RGB, RGBA, INDEX, DIFF and LUMA do once their new pixel is `p` (R122, R133, R134). -/
def Produces (s t : State) (p : Pixel) : Prop :=
  t.px = p ∧ Indexed s t ∧ Emitted s t ∧ t.run = s.run ∧ OpcodeFrame s t

/-- What the permuter's steps leave: everything of the decode side, and the configuration, the host and the source. -/
def KeepsDecodeSide (s t : State) : Prop :=
  t.cfg = s.cfg ∧ t.host = s.host ∧ t.src = s.src ∧ t.requests = s.requests ∧ t.draws = s.draws ∧
    t.px = s.px ∧ t.idx = s.idx ∧ t.run = s.run ∧ t.rdcnt = s.rdcnt ∧ t.pos = s.pos ∧ KeepsHeader s t ∧
    t.dphase = s.dphase ∧ t.imgValid = s.imgValid ∧ ∀ a, Memory.read t.img a = Memory.read s.img a

/-! ## What an error leaves -/

/-- A decode error `e` after `n` byte requests (R184): the three fields it records, no byte of the image store with a
value, the permuter's side as it was. Every other decode register is unspecified. -/
def DecodeFailed (s t : State) (e : DecodeErr) (n : Nat) : Prop :=
  t.derr = e ∧ t.dphase = .err ∧ t.imgValid = false ∧ (∀ a, Memory.read t.img a = none) ∧
    t.requests = s.requests + n ∧ KeepsConvertSide s t

/-! ## The surface -/

/-- Surface pixel `k` at `base` holds `p` in the byte order b, g, r, a (R59). -/
def HoldsPixel (m : Memory) (base k : Nat) (p : Pixel) : Prop :=
  Memory.read m (surfaceAddr base k) = some p.b ∧ Memory.read m (surfaceAddr base k + 1) = some p.g ∧
    Memory.read m (surfaceAddr base k + 2) = some p.r ∧ Memory.read m (surfaceAddr base k + 3) = some p.a

/-! ## Invariants -/

/-- The pixel loop runs or has ended well. -/
abbrev Decoded (s : State) : Prop := s.dphase = .pix ∨ s.dphase = .ok

/-- The core's main invariant: the phases, flags and counters agree (10_state R22 to R34, 41 R120, 42 R164). -/
structure CoreInv (s : State) : Prop where
  /-- The image store is in canonical form. -/
  imgForm : Memory.wf s.img
  /-- The surface is in canonical form. -/
  bmpForm : Memory.wf s.bmp
  /-- IMG_VALID is 1 exactly when a decode completed (R31, R45). -/
  imgValid_iff : s.imgValid = true ↔ s.dphase = .ok
  /-- An error is recorded exactly when the decode failed (R30, R45). -/
  derr_iff : s.derr ≠ .none ↔ s.dphase = .err
  /-- BMP_VALID is 1 exactly when a conversion completed (R34). -/
  bmpValid_iff : s.bmpValid = true ↔ s.cphase = .ok
  /-- AllocationFailed is recorded exactly when the conversion failed (R33). -/
  cerr_iff : s.cerr = .allocationFailed ↔ s.cphase = .err
  /-- The units never run together (R32). -/
  exclusive : s.cphase = .alloc ∨ s.cphase = .copy → s.dphase = .ok
  /-- Nothing has been read when the header step is next (R100). -/
  unread : s.dphase = .hdr → s.rdcnt = 0 ∧ s.requests = 0 ∧ s.pos = 0 ∧ s.run = 0
  /-- The header passed its checks, and NPIX is the product (R105, R107). -/
  header : Decoded s →
    headerOk s.cfg.pixelsMax s.hdrW s.hdrH s.hdrCh s.hdrCs = true ∧ s.npix = s.hdrW.toNat * s.hdrH.toNat
  /-- POS < NPIX while the loop runs (R120). -/
  looping : s.dphase = .pix → s.pos < s.npix
  /-- POS = NPIX at the end (R45). -/
  ended : s.dphase = .ok → s.pos = s.npix
  /-- Every slot before POS holds a pixel (R31, R133). -/
  written : Decoded s → ∀ k, k < s.pos → ∃ p, readSlot s.img k = some p
  /-- RUN lies in 0..61 (R25). -/
  runRange : Decoded s → s.run.toNat ≤ 61
  /-- RDCNT counts the requests, at most five a pixel after the header (R22, R131). -/
  reads : Decoded s → s.requests = s.rdcnt ∧ 14 ≤ s.rdcnt ∧ s.rdcnt ≤ 14 + 5 * s.pos
  /-- Nothing is copied before the surface is granted (R160). -/
  uncopied : s.cphase = .alloc → s.cpos = 0
  /-- CPOS < NPIX while pixels are copied (R164). -/
  copying : s.cphase = .copy → s.cpos < s.npix

/-- The cache invariant (41 R138, R125). -/
structure CacheInv (s : State) : Prop where
  /-- The decode-start values (R100). -/
  fresh : s.dphase = .hdr → s.px = Pixel.initial ∧ ∀ i, idxRead s.idx i = Pixel.zero
  /-- An entry is empty or holds a pixel whose hash is its number (R125). -/
  entries : s.dphase = .pix → ∀ i, idxRead s.idx i = Pixel.zero ∨ pixelHash (idxRead s.idx i) = i
  /-- The current pixel stands in its entry, unless only RUNs and repeats have run (R138). -/
  current : s.dphase = .pix → idxRead s.idx (pixelHash s.px) = s.px ∨
    (s.px = Pixel.initial ∧ ∀ i, idxRead s.idx i = Pixel.zero)

/-- The surface invariant (42 R164, R167): while pixels are copied, each one copied so far stands at its place. -/
def SurfaceInv (s : State) : Prop :=
  s.cphase = .copy → ∀ k, k < s.cpos →
    ∃ p, readSlot s.img k = some p ∧ HoldsPixel s.bmp s.bmpBase k p

end Sys2Proof.Machine
end

