-- ==== Sys2Proof/Certificates/Slice0/Obligations.lean ====
section
/-! DEFINITION. The statements for the provers, from the numbered rules of the spec. -/

open Sys2Proof Sys2Proof.Machine

/-! ## Encoding -/

/-- R83, R85: decoding an assembled instruction gives it back, whatever bytes follow, for every operand the encoding
admits. -/
def Obligations.DecodeOfEncode : Prop :=
  ∀ (i : Instr) (rest : List Byte), wellFormed i = true → decode (encode i ++ rest) = .ok (i, rest)

/-- R83, R85: assembling a decoded instruction gives back the bytes it was decoded from, and it meets the assembler's
constraints. -/
def Obligations.EncodeOfDecode : Prop :=
  ∀ (bs rest : List Byte) (i : Instr), decode bs = .ok (i, rest) → wellFormed i = true ∧ encode i ++ rest = bs

/-- R81: decoding is total. With as many bytes as the first byte's length asks for (R72) it gives an instruction of the
selected opcode and leaves the bytes after it; it fails only for want of bytes. -/
def Obligations.DecodeFailsOnlyForWantOfBytes : Prop :=
  decode [] = .error .noFirstByte ∧
  ∀ (b1 : Byte) (rest : List Byte),
    (opcodeLength b1 ≤ rest.length + 1 →
      ∃ i, decode (b1 :: rest) = .ok (i, rest.drop (opcodeLength b1 - 1)) ∧ i.opcode = select b1) ∧
    (rest.length + 1 < opcodeLength b1 → decode (b1 :: rest) = .error (.missingExtraBytes (select b1)))

/-- R80: the complete map of first-byte values, with the operand the row gives. -/
def Obligations.FirstByteMap : Prop :=
  ∀ b1 : Byte,
    (b1.toNat ≤ 0x3F → select b1 = .index ∧
      ∀ rest, decode (b1 :: rest) = .ok (.index (BitVec.ofNat 6 b1.toNat), rest)) ∧
    (0x40 ≤ b1.toNat → b1.toNat ≤ 0x7F → select b1 = .diff) ∧
    (0x80 ≤ b1.toNat → b1.toNat ≤ 0xBF → select b1 = .luma ∧
      ∀ b2 rest, ∃ drg dbg, decode (b1 :: b2 :: rest) = .ok (.luma ((b1.toNat : Int) - 0xA0) drg dbg, rest)) ∧
    (0xC0 ≤ b1.toNat → b1.toNat ≤ 0xFD → select b1 = .run ∧
      ∀ rest, decode (b1 :: rest) = .ok (.run (BitVec.ofNat 6 (b1.toNat - 0xC0)), rest)) ∧
    (b1.toNat = 0xFE → select b1 = .rgb) ∧
    (b1.toNat = 0xFF → select b1 = .rgba)

/-- R71: one word of each opcode, written out from its pattern, decodes to its instruction (the words of W1, P1, P3 and
V-RUN-3). -/
def Obligations.SpecWordsDecode : Prop :=
  decode [0b11111110, 0x11, 0x22, 0x33] = .ok (.rgb 17 34 51, []) ∧
  decode [0b11111111, 0x10, 0x20, 0x30, 0xFF] = .ok (.rgba 16 32 48 255, []) ∧
  decode [0b00001100] = .ok (.index 12, []) ∧
  decode [0b01110010] = .ok (.diff 1 (-2) 0, []) ∧
  decode [0b10101010, 0b11110000] = .ok (.luma 10 7 (-8), []) ∧
  decode [0b11111101] = .ok (.run 61, [])

/-! ## The opcodes -/

/-- R131: when the bytes ahead are an opcode's bytes (as many as its first byte asks for, R72) and decode to `i`, the
step is `exec i` at the state whose RDCNT (and request count) has gone past those bytes. -/
def Obligations.StepRunsDecodedInstruction : Prop :=
  ∀ (s : State) (b1 : Byte) (extra : List Byte) (i : Instr), OpcodeTurn s → SuppliesAll s (b1 :: extra) →
    extra.length = opcodeLength b1 - 1 → decode (b1 :: extra) = .ok (i, []) →
    step s = exec i (consume (opcodeLength b1) s)

/-- R123: RGB. Its encoding; its effect (r, g, b overwritten, alpha kept, index update, emit; nothing else); its fetch,
in both read modes; and StreamExhausted when one of its three bytes is missing. -/
def Obligations.RgbOpcode : Prop :=
  (∀ r g b rest, decode (0xFE :: r :: g :: b :: rest) = .ok (.rgb r g b, rest)) ∧
  (∀ r g b s, ∃ t, exec (.rgb r g b) s = .next t ∧ Produces s t ⟨r, g, b, s.px.a⟩) ∧
  (∀ s r g b, OpcodeTurn s → Supplies s 0 0xFE → Supplies s 1 r → Supplies s 2 g → Supplies s 3 b →
    step s = exec (.rgb r g b) (consume 4 s)) ∧
  (∀ s k, OpcodeTurn s → s.cfg.lenientRead = false → Supplies s 0 0xFE → k < 3 →
    (∀ j, j < k → ∃ v, Supplies s (j + 1) v) → Ends s (k + 1) →
    ∃ t, step s = .next t ∧ DecodeFailed s t .streamExhausted (k + 2))

/-- R124: RGBA. Its encoding, its effect (all four channels, whatever HDR_CH is), its fetch, and StreamExhausted when
one of its four bytes is missing. -/
def Obligations.RgbaOpcode : Prop :=
  (∀ r g b a rest, decode (0xFF :: r :: g :: b :: a :: rest) = .ok (.rgba r g b a, rest)) ∧
  (∀ r g b a s, ∃ t, exec (.rgba r g b a) s = .next t ∧ Produces s t ⟨r, g, b, a⟩) ∧
  (∀ s r g b a, OpcodeTurn s → Supplies s 0 0xFF → Supplies s 1 r → Supplies s 2 g → Supplies s 3 b →
    Supplies s 4 a → step s = exec (.rgba r g b a) (consume 5 s)) ∧
  (∀ s k, OpcodeTurn s → s.cfg.lenientRead = false → Supplies s 0 0xFF → k < 4 →
    (∀ j, j < k → ∃ v, Supplies s (j + 1) v) → Ends s (k + 1) →
    ∃ t, step s = .next t ∧ DecodeFailed s t .streamExhausted (k + 2))

/-- R125: INDEX. Its encoding; its effect (PX takes the entry as it was before the update, the update writes entry
`hash(PX)`, emit); its one-byte fetch, after which nothing can be missing. -/
def Obligations.IndexOpcode : Prop :=
  (∀ (i : BitVec 6) rest, decode (BitVec.ofNat 8 i.toNat :: rest) = .ok (.index i, rest)) ∧
  (∀ i s, ∃ t, exec (.index i) s = .next t ∧ Produces s t (idxRead s.idx i)) ∧
  (∀ s (i : BitVec 6), OpcodeTurn s → Supplies s 0 (BitVec.ofNat 8 i.toNat) →
    step s = exec (.index i) (consume 1 s))

/-- R126: DIFF. Its encoding (each delta is its field less 2); its effect for every delta (lanes r, g, b modulo 256, each
from its own old value, alpha kept, index update, emit); its one-byte fetch. -/
def Obligations.DiffOpcode : Prop :=
  (∀ (r g b : Nat) rest, r < 4 → g < 4 → b < 4 →
    decode (BitVec.ofNat 8 (0x40 + 16 * r + 4 * g + b) :: rest) = .ok (.diff (r - 2) (g - 2) (b - 2), rest)) ∧
  (∀ (dr dg db : Int) s, ∃ t, exec (.diff dr dg db) s = .next t ∧ Produces s t t.px ∧
    (t.px.r.toNat : Int) = (s.px.r.toNat + dr) % 256 ∧ (t.px.g.toNat : Int) = (s.px.g.toNat + dg) % 256 ∧
    (t.px.b.toNat : Int) = (s.px.b.toNat + db) % 256 ∧ t.px.a = s.px.a) ∧
  (∀ s (r g b : Nat), r < 4 → g < 4 → b < 4 → OpcodeTurn s →
    Supplies s 0 (BitVec.ofNat 8 (0x40 + 16 * r + 4 * g + b)) →
    step s = exec (.diff (r - 2) (g - 2) (b - 2)) (consume 1 s))

/-- R127: LUMA. Its encoding (`vg` is the field less 32, the other two deltas their nibbles less 8); its effect for every
operand (red and blue move by `vg` plus their own delta, from the old values, modulo 256, alpha kept, index update,
emit); its fetch, and StreamExhausted when `b2` is missing. -/
def Obligations.LumaOpcode : Prop :=
  (∀ (g r b : Nat) rest, g < 64 → r < 16 → b < 16 →
    decode (BitVec.ofNat 8 (0x80 + g) :: BitVec.ofNat 8 (16 * r + b) :: rest) =
      .ok (.luma (g - 32) (r - 8) (b - 8), rest)) ∧
  (∀ (vg drg dbg : Int) s, ∃ t, exec (.luma vg drg dbg) s = .next t ∧ Produces s t t.px ∧
    (t.px.g.toNat : Int) = (s.px.g.toNat + vg) % 256 ∧ (t.px.r.toNat : Int) = (s.px.r.toNat + (vg + drg)) % 256 ∧
    (t.px.b.toNat : Int) = (s.px.b.toNat + (vg + dbg)) % 256 ∧ t.px.a = s.px.a) ∧
  (∀ s (g r b : Nat), g < 64 → r < 16 → b < 16 → OpcodeTurn s → Supplies s 0 (BitVec.ofNat 8 (0x80 + g)) →
    Supplies s 1 (BitVec.ofNat 8 (16 * r + b)) →
    step s = exec (.luma (g - 32) (r - 8) (b - 8)) (consume 2 s)) ∧
  (∀ s (g : Nat), g < 64 → OpcodeTurn s → s.cfg.lenientRead = false → Supplies s 0 (BitVec.ofNat 8 (0x80 + g)) →
    Ends s 1 → ∃ t, step s = .next t ∧ DecodeFailed s t .streamExhausted 2)

/-- R128: RUN. Its encoding (`n` in 0..61); its effect (RUN takes `n`, PX and IDX are unchanged, PX is emitted); its
one-byte fetch. -/
def Obligations.RunOpcode : Prop :=
  (∀ (n : Nat) rest, n ≤ 61 → decode (BitVec.ofNat 8 (0xC0 + n) :: rest) = .ok (.run (BitVec.ofNat 6 n), rest)) ∧
  (∀ n s, ∃ t, exec (.run n) s = .next t ∧ t.run = n ∧ t.px = s.px ∧ t.idx = s.idx ∧ Emitted s t ∧
    OpcodeFrame s t) ∧
  (∀ s (n : Nat), n ≤ 61 → OpcodeTurn s → Supplies s 0 (BitVec.ofNat 8 (0xC0 + n)) →
    step s = exec (.run (BitVec.ofNat 6 n)) (consume 1 s))

/-- R129: the repeat iteration. RUN goes down by one, PX is emitted unchanged, no byte is requested and the index cache
is unchanged; it cannot fail, whatever the source has left. -/
def Obligations.RepeatIteration : Prop :=
  ∀ s : State, s.host = [] → s.dphase = .pix → s.run ≠ 0 →
    ∃ t, step s = .next t ∧ t.run.toNat + 1 = s.run.toNat ∧ t.px = s.px ∧ t.idx = s.idx ∧ Emitted s t ∧
      OpcodeFrame s t

/-- R120, R131: an iteration that does not fail emits exactly one pixel and reads at most five bytes, in order: RDCNT
never goes back and counts the requests. -/
def Obligations.IterationEmitsOnePixel : Prop :=
  ∀ s t : State, s.host = [] → s.dphase = .pix → step s = .next t → t.dphase ≠ .err →
    Emitted s t ∧ KeepsHeader s t ∧
      ∃ n, n ≤ 5 ∧ t.rdcnt = s.rdcnt + n ∧ t.requests = s.requests + n

/-- R79, R128, R129, R135: a RUN of field `n` emits PX `n + 1` times, or as often as the image has room, on one byte
read; the rest of a run cut short is discarded, with no error. Stated from the invariant (log entry 11). -/
def Obligations.RunEmitsRepeats : Prop :=
  ∀ (s : State) (n m : Nat), CoreInv s → OpcodeTurn s → n ≤ 61 → Supplies s 0 (BitVec.ofNat 8 (0xC0 + n)) →
    m = min (n + 1) (s.npix - s.pos) →
    ∃ t, Host.Core.run Sys2Proof.core m s = .next t ∧ t.pos = s.pos + m ∧
      t.rdcnt = s.rdcnt + 1 ∧ t.requests = s.requests + 1 ∧ t.px = s.px ∧ t.idx = s.idx ∧
      (∀ j, j < m → readSlot t.img (s.pos + j) = some s.px) ∧
      (∀ a, a < slotAddr s.pos ∨ slotAddr (s.pos + m) ≤ a → Memory.read t.img a = Memory.read s.img a) ∧
      t.derr = s.derr ∧
      (t.pos = s.npix → t.dphase = .ok ∧ t.imgValid = true) ∧
      (t.pos ≠ s.npix → t.dphase = .pix ∧ t.run = 0)

/-- R121: the hash, its range, and that a sum of any width of at least six bits gives the same value. -/
def Obligations.HashOfPixel : Prop :=
  ∀ p : Pixel, (pixelHash p).toNat = (3 * p.r.toNat + 5 * p.g.toNat + 7 * p.b.toNat + 11 * p.a.toNat) % 64 ∧
    3 * p.r.toNat + 5 * p.g.toNat + 7 * p.b.toNat + 11 * p.a.toNat ≤ 6630 ∧
    ∀ k, 6 ≤ k →
      (3 * p.r.toNat + 5 * p.g.toNat + 7 * p.b.toNat + 11 * p.a.toNat) % 2 ^ k % 64 = (pixelHash p).toNat

/-! ## The header -/

/-- R102, R103, R181: a first four bytes other than 71 6F 69 66, or a source that ends before the fourth, gives
InvalidMagic in either read mode, after four requests or at the missing one. -/
def Obligations.MagicIsChecked : Prop :=
  (∀ s k, HeaderTurn s → k < 4 → (∀ j, j < k → ∃ v, Answers s j v) → Ends s k →
    ∃ t, step s = .next t ∧ DecodeFailed s t .invalidMagic (k + 1)) ∧
  (∀ s b0 b1 b2 b3, HeaderTurn s → Answers s 0 b0 → Answers s 1 b1 → Answers s 2 b2 → Answers s 3 b3 →
    ¬ (b0 = 0x71 ∧ b1 = 0x6F ∧ b2 = 0x69 ∧ b3 = 0x66) →
    ∃ t, step s = .next t ∧ DecodeFailed s t .invalidMagic 4)

/-- R104, R105, R107, R182: with the magic right and ten field bytes, the header is refused with InvalidHeader when one
of the five conditions holds; else the four registers hold the big-endian fields, NPIX is the exact product, fourteen
bytes have been requested and the pixel loop is next; no pixel is emitted. -/
def Obligations.HeaderIsCheckedAndLoaded : Prop :=
  ∀ (s : State) (w3 w2 w1 w0 h3 h2 h1 h0 ch cs : Byte) (w h : Nat), HeaderTurn s →
    Answers s 0 0x71 → Answers s 1 0x6F → Answers s 2 0x69 → Answers s 3 0x66 →
    Supplies s 4 w3 → Supplies s 5 w2 → Supplies s 6 w1 → Supplies s 7 w0 →
    Supplies s 8 h3 → Supplies s 9 h2 → Supplies s 10 h1 → Supplies s 11 h0 → Supplies s 12 ch → Supplies s 13 cs →
    w = w3.toNat * 2 ^ 24 + w2.toNat * 2 ^ 16 + w1.toNat * 2 ^ 8 + w0.toNat →
    h = h3.toNat * 2 ^ 24 + h2.toNat * 2 ^ 16 + h1.toNat * 2 ^ 8 + h0.toNat →
    ∃ t, step s = .next t ∧
      (w = 0 ∨ h = 0 ∨ ¬ (ch = 3 ∨ ch = 4) ∨ ¬ (cs = 0 ∨ cs = 1) ∨ s.cfg.pixelsMax / w ≤ h →
        DecodeFailed s t .invalidHeader 14) ∧
      (¬ (w = 0 ∨ h = 0 ∨ ¬ (ch = 3 ∨ ch = 4) ∨ ¬ (cs = 0 ∨ cs = 1) ∨ s.cfg.pixelsMax / w ≤ h) →
        t.hdrW.toNat = w ∧ t.hdrH.toNat = h ∧ t.hdrCh = ch ∧ t.hdrCs = cs ∧ t.npix = w * h ∧ t.dphase = .pix ∧
        t.rdcnt = s.rdcnt + 14 ∧ t.requests = s.requests + 14 ∧ t.px = s.px ∧ t.idx = s.idx ∧ t.run = s.run ∧
        t.pos = s.pos ∧ t.derr = s.derr ∧ t.imgValid = s.imgValid ∧ t.draws = s.draws ∧
        (∀ a, Memory.read t.img a = Memory.read s.img a) ∧ KeepsConvertSide s t)

/-- R106: what the five checks admit. -/
def Obligations.GuardAdmits : Prop :=
  ∀ (p : Nat) (w h : Word32) (ch cs : Byte),
    (headerOk p w h ch cs = true ↔ w.toNat ≠ 0 ∧ h.toNat ≠ 0 ∧ (ch = 3 ∨ ch = 4) ∧ (cs = 0 ∨ cs = 1) ∧
      w.toNat * (h.toNat + 1) ≤ p) ∧
    (headerOk p w h ch cs = true →
      w.toNat * h.toNat + w.toNat ≤ p ∧ 1 ≤ w.toNat * h.toNat ∧ w.toNat ≤ p / 2 ∧ h.toNat ≤ p - 1)

/-- R183: in strict mode a missing byte raises StreamExhausted, at its request, in the header after the magic, at an
opcode's first byte and at its extra bytes; a repeat iteration cannot raise it. -/
def Obligations.MissingByteRaisesStreamExhausted : Prop :=
  (∀ s k, HeaderTurn s → s.cfg.lenientRead = false →
    Answers s 0 0x71 → Answers s 1 0x6F → Answers s 2 0x69 → Answers s 3 0x66 → k < 10 →
    (∀ j, j < k → ∃ v, Supplies s (4 + j) v) → Ends s (4 + k) →
    ∃ t, step s = .next t ∧ DecodeFailed s t .streamExhausted (4 + k + 1)) ∧
  (∀ s, OpcodeTurn s → s.cfg.lenientRead = false → Ends s 0 →
    ∃ t, step s = .next t ∧ DecodeFailed s t .streamExhausted 1) ∧
  (∀ s b1 k, OpcodeTurn s → s.cfg.lenientRead = false → Supplies s 0 b1 → k < opcodeLength b1 - 1 →
    (∀ j, j < k → ∃ v, Supplies s (j + 1) v) → Ends s (k + 1) →
    ∃ t, step s = .next t ∧ DecodeFailed s t .streamExhausted (k + 2)) ∧
  (∀ s, s.host = [] → s.dphase = .pix → s.run ≠ 0 → ∃ t, step s = .next t ∧ t.derr = s.derr ∧ t.dphase ≠ .err)

/-- R137: under LENIENT_READ = true a missing first byte executes INDEX 0, no iteration raises an error, and a loop
whose source is closed ends OK after exactly the iterations that are left. -/
def Obligations.LenientLoopNeverFails : Prop :=
  (∀ s, OpcodeTurn s → s.cfg.lenientRead = true → Ends s 0 → step s = exec (.index 0) (consume 1 s)) ∧
  (∀ s t, s.host = [] → s.dphase = .pix → s.cfg.lenientRead = true → step s = .next t →
    t.derr = s.derr ∧ t.dphase ≠ .err) ∧
  (∀ s, CoreInv s → s.host = [] → s.dphase = .pix → s.cfg.lenientRead = true → s.src.closed = true →
    ∃ t, Host.Core.run Sys2Proof.core (s.npix - s.pos) s = .next t ∧ t.dphase = .ok ∧ t.imgValid = true)

/-! ## Errors and the end of a decode -/

/-- R184: whatever error a header step or an iteration raises, it is recorded in DERR, DPHASE is ERR, IMG_VALID is 0, no
byte of the image store has a value, and the permuter's side is untouched. -/
def Obligations.DecodeErrorEntry : Prop :=
  ∀ s t : State, s.host = [] → s.dphase = .hdr ∨ s.dphase = .pix → step s = .next t → t.dphase = .err →
    ∃ e n, e ≠ DecodeErr.none ∧ n ≤ 14 ∧ DecodeFailed s t e n

/-- R189: only START_DECODE (a new decode, from source offset 0) or RESET leaves DPHASE = ERR, and only START_CONVERT
(with IMG_VALID = 1) or RESET leaves CPHASE = ERR. -/
def Obligations.OnlyCommandsLeaveError : Prop :=
  (∀ s t : State, s.dphase = .err → step s = .next t →
    (t.dphase = .err ∧ t.derr = s.derr) ∨
    (∃ rest, s.host = .command .startDecode :: rest ∧ t.dphase = .hdr ∧ t.rdcnt = 0 ∧ t.derr = .none) ∨
    (∃ rest, s.host = .command .reset :: rest ∧ t.dphase = .idle ∧ t.derr = .none)) ∧
  (∀ s t : State, s.cphase = .err → step s = .next t →
    (t.cphase = .err ∧ t.cerr = s.cerr) ∨
    (∃ rest, s.host = .command .startConvert :: rest ∧ s.imgValid = true ∧ t.cphase = .alloc ∧ t.cerr = .none) ∨
    (∃ rest, s.host = .command .reset :: rest ∧ t.cphase = .idle ∧ t.cerr = .none))

/-- R197 (that a run then stops where the host makes no further move is the model's: log entry 5): with both phases IDLE,
OK or ERR the core has no step; it holds its state when given the turn. -/
def Obligations.IdleUnitsTakeNoStep : Prop :=
  ∀ s : State, (s.dphase = .idle ∨ s.dphase = .ok ∨ s.dphase = .err) →
    (s.cphase = .idle ∨ s.cphase = .ok ∨ s.cphase = .err) →
    (s.host = [] → step s = .fault .noStepEnabled) ∧
    (∀ rest, s.host = .pass :: rest → step s = .next { s with host := rest })

/-- R41, R43, U9 (the stop at the end of the host's moves is the model's: log entry 5): the core waits, with no effect,
for an answer the host has not made: to any of the header step's fourteen requests, to an opcode's first byte, to any of
its extra bytes, to the surface request. -/
def Obligations.CoreWaitsForAnswers : Prop :=
  (∀ s k, s.dphase = .hdr → k < 4 → (∀ j, j < k → ∃ v, Answers s j v) → Unanswered s k → Waits .awaitingByte s) ∧
  (∀ s k, s.dphase = .hdr → Answers s 0 0x71 → Answers s 1 0x6F → Answers s 2 0x69 → Answers s 3 0x66 → k < 10 →
    (∀ j, j < k → ∃ v, Supplies s (4 + j) v) → Unanswered s (4 + k) → Waits .awaitingByte s) ∧
  (∀ s, s.dphase = .pix → s.run = 0 → Unanswered s 0 → Waits .awaitingByte s) ∧
  (∀ s b1 k, s.dphase = .pix → s.run = 0 → Supplies s 0 b1 → k < opcodeLength b1 - 1 →
    (∀ j, j < k → ∃ v, Supplies s (j + 1) v) → Unanswered s (k + 1) → Waits .awaitingByte s) ∧
  (∀ s : State, s.dphase ≠ .hdr → s.dphase ≠ .pix → s.cphase = .alloc → s.alloc = none → Waits .awaitingAlloc s)

/-- R20, R41, R43: making answers ready changes SRC alone, answering the surface request changes the prepared answer
alone, and giving the turn to the core takes exactly the step the core would take alone, or none where it has none. The
model's choices in it: the moves stand in a list (log entry 5), a second surface answer replaces one already held (log
entry 15), a supply replaces answers not yet taken (log entry 18), and a copy step without its pixel, in a state no run
reaches, is a fault (log entry 11). -/
def Obligations.HostMovesAndTurns : Prop :=
  ∀ (s : State) (rest : List HostMove),
    (∀ src, s.host = .supply src :: rest → step s = .next { s with host := rest, src := src }) ∧
    (∀ a, s.host = .answerAlloc a :: rest → step s = .next { s with host := rest, alloc := some a }) ∧
    (s.host = .pass :: rest →
      (∀ t, step { s with host := [] } = .next t → step s = .next { t with host := rest }) ∧
      (∀ f, f = .noStepEnabled ∨ f = .awaitingByte ∨ f = .awaitingAlloc → step { s with host := [] } = .fault f →
        step s = .next { s with host := rest }) ∧
      (step { s with host := [] } = .fault .imageSlotUnwritten → step s = .fault .imageSlotUnwritten))

/-- R221: from the header step on, a decode whose source is closed (every request is answered) ends: the header step is
one step, the loop takes at most the iterations that are left, and there are at most 14 + 5 NPIX requests. -/
def Obligations.DecodeTerminates : Prop :=
  (∀ s, HeaderTurn s → s.src.closed = true → ∃ t, step s = .next t ∧ (t.dphase = .pix ∨ t.dphase = .err)) ∧
  (∀ s, CoreInv s → s.host = [] → s.dphase = .pix → s.src.closed = true →
    ∃ k t, k ≤ s.npix - s.pos ∧ Host.Core.run Sys2Proof.core k s = .next t ∧ (t.dphase = .ok ∨ t.dphase = .err) ∧
      t.requests ≤ 14 + 5 * s.npix)

/-! ## Commands -/

/-- R100: START_DECODE. When it is enabled: the decode-start values, and nothing else but the request count. When it is
not enabled it has no step (U10). The model's choices in it: NPIX and the header registers keep their values (R24 and R45
leave them unspecified here, log entry 13), a prepared surface answer is kept (log entry 10), the request count starts
again (log entry 6). -/
def Obligations.StartDecodeCommand : Prop :=
  ∀ (s : State) (rest : List HostMove), s.host = .command .startDecode :: rest →
    ((s.dphase = .idle ∨ s.dphase = .ok ∨ s.dphase = .err) → s.cphase ≠ .alloc → s.cphase ≠ .copy →
      ∃ t, step s = .next t ∧ t.imgValid = false ∧ t.derr = .none ∧ t.px = ⟨0, 0, 0, 255⟩ ∧
        (∀ i, idxRead t.idx i = ⟨0, 0, 0, 0⟩) ∧ t.run = 0 ∧ t.rdcnt = 0 ∧ t.pos = 0 ∧ t.dphase = .hdr ∧
        t.requests = 0 ∧ t.npix = s.npix ∧ t.hdrW = s.hdrW ∧ t.hdrH = s.hdrH ∧ t.hdrCh = s.hdrCh ∧
        t.hdrCs = s.hdrCs ∧ (∀ a, Memory.read t.img a = Memory.read s.img a) ∧
        KeepsConvertSide { s with host := rest } t) ∧
    (s.dphase = .hdr ∨ s.dphase = .pix ∨ s.cphase = .alloc ∨ s.cphase = .copy →
      step s = .refused (.commandNotEnabled .startDecode))

/-- R160: START_CONVERT. When it is enabled: its four writes, and nothing of the decode side. When it is not enabled it
has no step (U10). That a prepared surface answer is kept is the model's inference (log entry 10). -/
def Obligations.StartConvertCommand : Prop :=
  ∀ (s : State) (rest : List HostMove), s.host = .command .startConvert :: rest →
    (s.imgValid = true → s.cphase ≠ .alloc → s.cphase ≠ .copy →
      ∃ t, step s = .next t ∧ t.bmpValid = false ∧ t.cerr = .none ∧ t.cpos = 0 ∧ t.cphase = .alloc ∧
        t.bmpBase = s.bmpBase ∧ t.alphaMode = s.alphaMode ∧ t.alloc = s.alloc ∧
        (∀ a, Memory.read t.bmp a = Memory.read s.bmp a) ∧ KeepsDecodeSide { s with host := rest } t) ∧
    (s.imgValid = false ∨ s.cphase = .alloc ∨ s.cphase = .copy →
      step s = .refused (.commandNotEnabled .startConvert))

/-- R210: RESET, in any state, and power-on: the six status fields. The rest is the model's: that no byte of the image
store then has a value is its form of unspecified (log entry 7), and that the prepared surface answer is gone while the
surface's bytes and the source stay is its inference (log entry 10). -/
def Obligations.ResetCommand : Prop :=
  (∀ (s : State) (rest : List HostMove), s.host = .command .reset :: rest →
    ∃ t, step s = .next t ∧ t.dphase = .idle ∧ t.derr = .none ∧ t.imgValid = false ∧ t.cphase = .idle ∧
      t.cerr = .none ∧ t.bmpValid = false ∧ (∀ a, Memory.read t.img a = none) ∧ t.alloc = none ∧
      (∀ a, Memory.read t.bmp a = Memory.read s.bmp a) ∧ t.cfg = s.cfg ∧ t.src = s.src ∧ t.host = rest) ∧
  (State.reset.dphase = .idle ∧ State.reset.derr = .none ∧ State.reset.imgValid = false ∧
    State.reset.cphase = .idle ∧ State.reset.cerr = .none ∧ State.reset.bmpValid = false)

/-! ## The permuter -/

/-- R161, R162, R185: the allocation step. The request; a granted surface (its base is taken, no byte outside it
changes); a refusal (AllocationFailed, nothing written). The decode side is unchanged. The model's own: that the granted
surface's bytes lose their values is its inference (log entry 9), and that the answer, prepared in the state, is used up
is its form of an answer (log entries 5 and 10). -/
def Obligations.AllocationStep : Prop :=
  ∀ s : State, s.host = [] → s.dphase ≠ .hdr → s.dphase ≠ .pix → s.cphase = .alloc →
    allocRequest s = some { width := s.hdrW, height := s.hdrH, bitsPerPixel := 32, topDown := true,
                            size := 4 * s.npix } ∧
    (∀ base, s.alloc = some (.granted base) → ∃ t, step s = .next t ∧ t.bmpBase = base ∧ t.cphase = .copy ∧
      t.alloc = none ∧ t.cerr = s.cerr ∧ t.bmpValid = s.bmpValid ∧ t.alphaMode = s.alphaMode ∧ t.cpos = s.cpos ∧
      (∀ a, base ≤ a → a < base + 4 * s.npix → Memory.read t.bmp a = none) ∧
      (∀ a, a < base ∨ base + 4 * s.npix ≤ a → Memory.read t.bmp a = Memory.read s.bmp a) ∧
      KeepsDecodeSide s t) ∧
    (s.alloc = some .refused → ∃ t, step s = .next t ∧ t.cerr = .allocationFailed ∧ t.cphase = .err ∧
      t.alloc = none ∧ t.bmpBase = s.bmpBase ∧ t.bmpValid = s.bmpValid ∧ t.alphaMode = s.alphaMode ∧
      t.cpos = s.cpos ∧ (∀ a, Memory.read t.bmp a = Memory.read s.bmp a) ∧ KeepsDecodeSide s t)

/-- R164, R165, R166: the copy step. The surface pixel at CPOS takes b, g, r, a of the image pixel, every byte outside
it is unchanged, CPOS goes on by one; the last one sets the alpha mode, BMP_VALID and CPHASE = OK. -/
def Obligations.CopyStep : Prop :=
  ∀ (s : State) (p : Pixel), s.host = [] → s.dphase ≠ .hdr → s.dphase ≠ .pix → s.cphase = .copy →
    s.cpos < s.npix → readSlot s.img s.cpos = some p →
    ∃ t, step s = .next t ∧ HoldsPixel t.bmp s.bmpBase s.cpos p ∧
      (∀ a, a < surfaceAddr s.bmpBase s.cpos ∨ surfaceAddr s.bmpBase s.cpos + 4 ≤ a →
        Memory.read t.bmp a = Memory.read s.bmp a) ∧
      t.cpos = s.cpos + 1 ∧ t.bmpBase = s.bmpBase ∧ t.cerr = s.cerr ∧ t.alloc = s.alloc ∧ KeepsDecodeSide s t ∧
      (s.cpos + 1 = s.npix → t.cphase = .ok ∧ t.bmpValid = true ∧
        (s.hdrCh = 4 → t.alphaMode = .argb) ∧ (s.hdrCh = 3 → t.alphaMode = .rgb)) ∧
      (s.cpos + 1 ≠ s.npix → t.cphase = .copy ∧ t.bmpValid = s.bmpValid ∧ t.alphaMode = s.alphaMode)

/-- R167, R221: a conversion whose surface is granted ends after one allocation step and NPIX copy steps with the whole
permuted image in the surface and the alpha mode of the header; it changes no other byte and nothing of the decode
side. -/
def Obligations.ConversionWritesWholeSurface : Prop :=
  ∀ (s : State) (base : Nat), CoreInv s → s.host = [] → s.cphase = .alloc →
    s.alloc = some (.granted base) →
    ∃ t, Host.Core.run Sys2Proof.core (1 + s.npix) s = .next t ∧ t.cphase = .ok ∧ t.bmpValid = true ∧
      t.bmpBase = base ∧ (t.alphaMode = .argb ↔ s.hdrCh = 4) ∧ t.cerr = s.cerr ∧
      (∀ k, k < s.npix → ∃ p, readSlot s.img k = some p ∧ HoldsPixel t.bmp base k p) ∧
      (∀ a, a < base ∨ base + surfaceSize s.npix ≤ a → Memory.read t.bmp a = Memory.read s.bmp a) ∧
      KeepsDecodeSide s t

/-! ## Invariants -/

/-- Every step keeps the core's main invariant, the host's moves among them. -/
def Obligations.StepKeepsInvariant : Prop :=
  ∀ s t : State, CoreInv s → step s = .next t → CoreInv t

/-- R138, R125: every step keeps the cache invariant. -/
def Obligations.StepKeepsCacheInvariant : Prop :=
  ∀ s t : State, CacheInv s → step s = .next t → CacheInv t

/-- R164, R167: every step keeps the surface invariant, where the units do not run together. -/
def Obligations.StepKeepsSurfaceInvariant : Prop :=
  ∀ s t : State, CoreInv s → SurfaceInv s → step s = .next t → SurfaceInv t

/-- The three invariants hold after reset. -/
def Obligations.ResetMeetsInvariants : Prop :=
  CoreInv State.reset ∧ CacheInv State.reset ∧ SurfaceInv State.reset

/-- R22, R23, R24, R9: under the default ceiling every counter fits its 32-bit register (the model holds exact integers,
D5, log entry 4). -/
def Obligations.CountersFitTheirRegisters : Prop :=
  ∀ s : State, CoreInv s → s.cfg.pixelsMax = 400000000 → Decoded s →
    1 ≤ s.npix ∧ s.npix ≤ 399999999 ∧ s.pos ≤ s.npix ∧ s.rdcnt ≤ 2000000009 ∧ s.rdcnt < 2 ^ 32 ∧
      (s.cphase = .copy → s.cpos < 2 ^ 32)

/-! ## Rules about the whole machine -/

/-- R31, R34: IMG_VALID is set only by the last iteration of a decode and cleared only by START_DECODE or RESET;
BMP_VALID is set only by the last copy step and cleared only by START_CONVERT or RESET. -/
def Obligations.ValidFlagsChangeOnlyWhereStated : Prop :=
  ∀ s t : State, CoreInv s → step s = .next t →
    (s.imgValid = false → t.imgValid = true → s.dphase = .pix ∧ t.pos = t.npix ∧ t.derr = .none) ∧
    (s.imgValid = true → t.imgValid = false →
      ∃ c rest, s.host = .command c :: rest ∧ (c = .startDecode ∨ c = .reset)) ∧
    (s.bmpValid = false → t.bmpValid = true → s.cphase = .copy ∧ t.cpos = t.npix ∧ t.cphase = .ok) ∧
    (s.bmpValid = true → t.bmpValid = false →
      ∃ c rest, s.host = .command c :: rest ∧ (c = .startConvert ∨ c = .reset))

/-- R31, R39: while IMG_VALID is 1 the host can read every slot of the Image and the four header registers, and no error
is recorded: no truncated Image is ever exposed. -/
def Obligations.ValidImageIsComplete : Prop :=
  ∀ s : State, CoreInv s → s.imgValid = true →
    s.derr = .none ∧ s.npix = s.hdrW.toNat * s.hdrH.toNat ∧
    (∀ k, k < s.npix → ∃ p, hostRead (.imgSlot k) s = .ok (.pixel p)) ∧
    hostRead .hdrW s = .ok (.word s.hdrW) ∧ hostRead .hdrH s = .ok (.word s.hdrH) ∧
    hostRead .hdrCh s = .ok (.byte s.hdrCh) ∧ hostRead .hdrCs s = .ok (.byte s.hdrCs)

/-- R39, R65, U2, U3, with the encodings of R29, R30, R32, R33, R35 and R180: a host read outside its "readable when"
has no value; the six status fields are always readable, by their codes; while BMP_VALID is 1 the handle, the alpha bit
and every byte of the surface that has a value read as they are. That an offset of 4 * NPIX or more, past the surface's
end, is read in the same way is the model's choice (log entry 14). -/
def Obligations.HostReadsOnlyWhatIsReadable : Prop :=
  ∀ s : State,
    (s.imgValid = false → ∀ f, f = .hdrW ∨ f = .hdrH ∨ f = .hdrCh ∨ f = .hdrCs ∨ (∃ k, f = .imgSlot k) →
      hostRead f s = .error (.notReadable f)) ∧
    (∀ k, s.npix ≤ k → hostRead (.imgSlot k) s = .error (.notReadable (.imgSlot k))) ∧
    (s.bmpValid = false → ∀ f, f = .bmpBase ∨ f = .alphaMode ∨ (∃ o, f = .surfaceByte o) →
      hostRead f s = .error (.notReadable f)) ∧
    (s.bmpValid = true → hostRead .bmpBase s = .ok (.handle s.bmpBase) ∧
      (s.alphaMode = .rgb → hostRead .alphaMode s = .ok (.alpha 0)) ∧
      (s.alphaMode = .argb → hostRead .alphaMode s = .ok (.alpha 1)) ∧
      (∀ o v, Memory.read s.bmp (s.bmpBase + o) = some v → hostRead (.surfaceByte o) s = .ok (.byte v))) ∧
    (∃ c, hostRead .dphase s = .ok (.bits3 c) ∧ (s.dphase = .idle → c = 0) ∧ (s.dphase = .hdr → c = 1) ∧
      (s.dphase = .pix → c = 2) ∧ (s.dphase = .ok → c = 3) ∧ (s.dphase = .err → c = 4)) ∧
    (∃ c, hostRead .derr s = .ok (.bits3 c) ∧ (s.derr = .none → c = 0) ∧ (s.derr = .invalidMagic → c = 1) ∧
      (s.derr = .invalidHeader → c = 2) ∧ (s.derr = .streamExhausted → c = 3)) ∧
    (∃ c, hostRead .cphase s = .ok (.bits3 c) ∧ (s.cphase = .idle → c = 0) ∧ (s.cphase = .alloc → c = 1) ∧
      (s.cphase = .copy → c = 2) ∧ (s.cphase = .ok → c = 3) ∧ (s.cphase = .err → c = 4)) ∧
    (∃ c, hostRead .cerr s = .ok (.bits3 c) ∧ (s.cerr = .none → c = 0) ∧ (s.cerr = .allocationFailed → c = 4)) ∧
    hostRead .imgValid s = .ok (.bit s.imgValid) ∧ hostRead .bmpValid s = .ok (.bit s.bmpValid)

/-- R7, R8, R10: no step changes the configuration (it stands in State by the model's choice, log entry 3). -/
def Obligations.ConfigurationIsFixed : Prop :=
  ∀ s t : State, step s = .next t → t.cfg = s.cfg

/-- R45, R100: no step of the decode engine touches the permuter's registers or a surface's bytes. -/
def Obligations.DecodeLeavesPermuter : Prop :=
  ∀ s t : State, s.host = [] → s.dphase = .hdr ∨ s.dphase = .pix → step s = .next t → KeepsConvertSide s t

/-- R160, R185: no step of the permuter touches the decode engine's registers or the Image. -/
def Obligations.PermuterLeavesDecode : Prop :=
  ∀ s t : State, s.host = [] → s.dphase ≠ .hdr → s.dphase ≠ .pix → step s = .next t → KeepsDecodeSide s t

/-- R109: the channel count changes nothing an iteration does. Where the iteration raises an error, the registers R184
leaves unspecified agree only because both runs draw the same free values (the model's form of unspecified, log entry
7). -/
def Obligations.ChannelCountDoesNotReachThePixels : Prop :=
  ∀ (s t : State) (c : Byte), s.host = [] → s.dphase = .pix → step s = .next t →
    ∃ t', step { s with hdrCh := c } = .next t' ∧ { t' with hdrCh := t.hdrCh } = t

/-- R108: after the header step the recorded colour space changes nothing the core does. Where an iteration raises an
error, the registers R184 leaves unspecified agree only because both runs draw the same free values (the model's form of
unspecified, log entry 7). -/
def Obligations.ColourSpaceIsOnlyRecorded : Prop :=
  ∀ (s t : State) (c : Byte), s.host = [] → s.dphase ≠ .hdr → step s = .next t →
    ∃ t', step { s with hdrCs := c } = .next t' ∧ { t' with hdrCs := t.hdrCs } = t
end

