-- ==== Sys2Proof/Laws/State.lean ====
section
/-! SUPPORT. For each named update of the state, its value in every field, so that no proof unfolds a record update. -/

namespace Sys2Proof.Machine

/-! ## setPx -/

@[simp] theorem setPx_cfg (p : Pixel) (s : State) : (setPx p s).cfg = s.cfg := rfl
@[simp] theorem setPx_host (p : Pixel) (s : State) : (setPx p s).host = s.host := rfl
@[simp] theorem setPx_src (p : Pixel) (s : State) : (setPx p s).src = s.src := rfl
@[simp] theorem setPx_alloc (p : Pixel) (s : State) : (setPx p s).alloc = s.alloc := rfl
@[simp] theorem setPx_requests (p : Pixel) (s : State) : (setPx p s).requests = s.requests := rfl
@[simp] theorem setPx_draws (p : Pixel) (s : State) : (setPx p s).draws = s.draws := rfl
@[simp] theorem setPx_px (p : Pixel) (s : State) : (setPx p s).px = p := rfl
@[simp] theorem setPx_idx (p : Pixel) (s : State) : (setPx p s).idx = s.idx := rfl
@[simp] theorem setPx_run (p : Pixel) (s : State) : (setPx p s).run = s.run := rfl
@[simp] theorem setPx_rdcnt (p : Pixel) (s : State) : (setPx p s).rdcnt = s.rdcnt := rfl
@[simp] theorem setPx_pos (p : Pixel) (s : State) : (setPx p s).pos = s.pos := rfl
@[simp] theorem setPx_npix (p : Pixel) (s : State) : (setPx p s).npix = s.npix := rfl
@[simp] theorem setPx_hdrW (p : Pixel) (s : State) : (setPx p s).hdrW = s.hdrW := rfl
@[simp] theorem setPx_hdrH (p : Pixel) (s : State) : (setPx p s).hdrH = s.hdrH := rfl
@[simp] theorem setPx_hdrCh (p : Pixel) (s : State) : (setPx p s).hdrCh = s.hdrCh := rfl
@[simp] theorem setPx_hdrCs (p : Pixel) (s : State) : (setPx p s).hdrCs = s.hdrCs := rfl
@[simp] theorem setPx_dphase (p : Pixel) (s : State) : (setPx p s).dphase = s.dphase := rfl
@[simp] theorem setPx_derr (p : Pixel) (s : State) : (setPx p s).derr = s.derr := rfl
@[simp] theorem setPx_imgValid (p : Pixel) (s : State) : (setPx p s).imgValid = s.imgValid := rfl
@[simp] theorem setPx_img (p : Pixel) (s : State) : (setPx p s).img = s.img := rfl
@[simp] theorem setPx_cphase (p : Pixel) (s : State) : (setPx p s).cphase = s.cphase := rfl
@[simp] theorem setPx_cerr (p : Pixel) (s : State) : (setPx p s).cerr = s.cerr := rfl
@[simp] theorem setPx_bmpValid (p : Pixel) (s : State) : (setPx p s).bmpValid = s.bmpValid := rfl
@[simp] theorem setPx_bmpBase (p : Pixel) (s : State) : (setPx p s).bmpBase = s.bmpBase := rfl
@[simp] theorem setPx_alphaMode (p : Pixel) (s : State) : (setPx p s).alphaMode = s.alphaMode := rfl
@[simp] theorem setPx_cpos (p : Pixel) (s : State) : (setPx p s).cpos = s.cpos := rfl
@[simp] theorem setPx_bmp (p : Pixel) (s : State) : (setPx p s).bmp = s.bmp := rfl

/-! ## indexUpdate -/

@[simp] theorem indexUpdate_cfg (s : State) : (indexUpdate s).cfg = s.cfg := rfl
@[simp] theorem indexUpdate_host (s : State) : (indexUpdate s).host = s.host := rfl
@[simp] theorem indexUpdate_src (s : State) : (indexUpdate s).src = s.src := rfl
@[simp] theorem indexUpdate_alloc (s : State) : (indexUpdate s).alloc = s.alloc := rfl
@[simp] theorem indexUpdate_requests (s : State) : (indexUpdate s).requests = s.requests := rfl
@[simp] theorem indexUpdate_draws (s : State) : (indexUpdate s).draws = s.draws := rfl
@[simp] theorem indexUpdate_px (s : State) : (indexUpdate s).px = s.px := rfl
@[simp] theorem indexUpdate_idx (s : State) : (indexUpdate s).idx = idxWrite s.idx (pixelHash s.px) s.px := rfl
@[simp] theorem indexUpdate_run (s : State) : (indexUpdate s).run = s.run := rfl
@[simp] theorem indexUpdate_rdcnt (s : State) : (indexUpdate s).rdcnt = s.rdcnt := rfl
@[simp] theorem indexUpdate_pos (s : State) : (indexUpdate s).pos = s.pos := rfl
@[simp] theorem indexUpdate_npix (s : State) : (indexUpdate s).npix = s.npix := rfl
@[simp] theorem indexUpdate_hdrW (s : State) : (indexUpdate s).hdrW = s.hdrW := rfl
@[simp] theorem indexUpdate_hdrH (s : State) : (indexUpdate s).hdrH = s.hdrH := rfl
@[simp] theorem indexUpdate_hdrCh (s : State) : (indexUpdate s).hdrCh = s.hdrCh := rfl
@[simp] theorem indexUpdate_hdrCs (s : State) : (indexUpdate s).hdrCs = s.hdrCs := rfl
@[simp] theorem indexUpdate_dphase (s : State) : (indexUpdate s).dphase = s.dphase := rfl
@[simp] theorem indexUpdate_derr (s : State) : (indexUpdate s).derr = s.derr := rfl
@[simp] theorem indexUpdate_imgValid (s : State) : (indexUpdate s).imgValid = s.imgValid := rfl
@[simp] theorem indexUpdate_img (s : State) : (indexUpdate s).img = s.img := rfl
@[simp] theorem indexUpdate_cphase (s : State) : (indexUpdate s).cphase = s.cphase := rfl
@[simp] theorem indexUpdate_cerr (s : State) : (indexUpdate s).cerr = s.cerr := rfl
@[simp] theorem indexUpdate_bmpValid (s : State) : (indexUpdate s).bmpValid = s.bmpValid := rfl
@[simp] theorem indexUpdate_bmpBase (s : State) : (indexUpdate s).bmpBase = s.bmpBase := rfl
@[simp] theorem indexUpdate_alphaMode (s : State) : (indexUpdate s).alphaMode = s.alphaMode := rfl
@[simp] theorem indexUpdate_cpos (s : State) : (indexUpdate s).cpos = s.cpos := rfl
@[simp] theorem indexUpdate_bmp (s : State) : (indexUpdate s).bmp = s.bmp := rfl

/-! ## emit -/

@[simp] theorem emit_cfg (p : Pixel) (s : State) : (emit p s).cfg = s.cfg := rfl
@[simp] theorem emit_host (p : Pixel) (s : State) : (emit p s).host = s.host := rfl
@[simp] theorem emit_src (p : Pixel) (s : State) : (emit p s).src = s.src := rfl
@[simp] theorem emit_alloc (p : Pixel) (s : State) : (emit p s).alloc = s.alloc := rfl
@[simp] theorem emit_requests (p : Pixel) (s : State) : (emit p s).requests = s.requests := rfl
@[simp] theorem emit_draws (p : Pixel) (s : State) : (emit p s).draws = s.draws := rfl
@[simp] theorem emit_px (p : Pixel) (s : State) : (emit p s).px = s.px := rfl
@[simp] theorem emit_idx (p : Pixel) (s : State) : (emit p s).idx = s.idx := rfl
@[simp] theorem emit_run (p : Pixel) (s : State) : (emit p s).run = s.run := rfl
@[simp] theorem emit_rdcnt (p : Pixel) (s : State) : (emit p s).rdcnt = s.rdcnt := rfl
@[simp] theorem emit_pos (p : Pixel) (s : State) : (emit p s).pos = s.pos + 1 := rfl
@[simp] theorem emit_npix (p : Pixel) (s : State) : (emit p s).npix = s.npix := rfl
@[simp] theorem emit_hdrW (p : Pixel) (s : State) : (emit p s).hdrW = s.hdrW := rfl
@[simp] theorem emit_hdrH (p : Pixel) (s : State) : (emit p s).hdrH = s.hdrH := rfl
@[simp] theorem emit_hdrCh (p : Pixel) (s : State) : (emit p s).hdrCh = s.hdrCh := rfl
@[simp] theorem emit_hdrCs (p : Pixel) (s : State) : (emit p s).hdrCs = s.hdrCs := rfl
@[simp] theorem emit_dphase (p : Pixel) (s : State) : (emit p s).dphase = s.dphase := rfl
@[simp] theorem emit_derr (p : Pixel) (s : State) : (emit p s).derr = s.derr := rfl
@[simp] theorem emit_imgValid (p : Pixel) (s : State) : (emit p s).imgValid = s.imgValid := rfl
@[simp] theorem emit_img (p : Pixel) (s : State) : (emit p s).img = writeSlot s.img s.pos p := rfl
@[simp] theorem emit_cphase (p : Pixel) (s : State) : (emit p s).cphase = s.cphase := rfl
@[simp] theorem emit_cerr (p : Pixel) (s : State) : (emit p s).cerr = s.cerr := rfl
@[simp] theorem emit_bmpValid (p : Pixel) (s : State) : (emit p s).bmpValid = s.bmpValid := rfl
@[simp] theorem emit_bmpBase (p : Pixel) (s : State) : (emit p s).bmpBase = s.bmpBase := rfl
@[simp] theorem emit_alphaMode (p : Pixel) (s : State) : (emit p s).alphaMode = s.alphaMode := rfl
@[simp] theorem emit_cpos (p : Pixel) (s : State) : (emit p s).cpos = s.cpos := rfl
@[simp] theorem emit_bmp (p : Pixel) (s : State) : (emit p s).bmp = s.bmp := rfl

/-! ## consume -/

@[simp] theorem consume_cfg (n : Nat) (s : State) : (consume n s).cfg = s.cfg := rfl
@[simp] theorem consume_host (n : Nat) (s : State) : (consume n s).host = s.host := rfl
@[simp] theorem consume_src (n : Nat) (s : State) : (consume n s).src = s.src := rfl
@[simp] theorem consume_alloc (n : Nat) (s : State) : (consume n s).alloc = s.alloc := rfl
@[simp] theorem consume_requests (n : Nat) (s : State) : (consume n s).requests = s.requests + n := rfl
@[simp] theorem consume_draws (n : Nat) (s : State) : (consume n s).draws = s.draws := rfl
@[simp] theorem consume_px (n : Nat) (s : State) : (consume n s).px = s.px := rfl
@[simp] theorem consume_idx (n : Nat) (s : State) : (consume n s).idx = s.idx := rfl
@[simp] theorem consume_run (n : Nat) (s : State) : (consume n s).run = s.run := rfl
@[simp] theorem consume_rdcnt (n : Nat) (s : State) : (consume n s).rdcnt = s.rdcnt + n := rfl
@[simp] theorem consume_pos (n : Nat) (s : State) : (consume n s).pos = s.pos := rfl
@[simp] theorem consume_npix (n : Nat) (s : State) : (consume n s).npix = s.npix := rfl
@[simp] theorem consume_hdrW (n : Nat) (s : State) : (consume n s).hdrW = s.hdrW := rfl
@[simp] theorem consume_hdrH (n : Nat) (s : State) : (consume n s).hdrH = s.hdrH := rfl
@[simp] theorem consume_hdrCh (n : Nat) (s : State) : (consume n s).hdrCh = s.hdrCh := rfl
@[simp] theorem consume_hdrCs (n : Nat) (s : State) : (consume n s).hdrCs = s.hdrCs := rfl
@[simp] theorem consume_dphase (n : Nat) (s : State) : (consume n s).dphase = s.dphase := rfl
@[simp] theorem consume_derr (n : Nat) (s : State) : (consume n s).derr = s.derr := rfl
@[simp] theorem consume_imgValid (n : Nat) (s : State) : (consume n s).imgValid = s.imgValid := rfl
@[simp] theorem consume_img (n : Nat) (s : State) : (consume n s).img = s.img := rfl
@[simp] theorem consume_cphase (n : Nat) (s : State) : (consume n s).cphase = s.cphase := rfl
@[simp] theorem consume_cerr (n : Nat) (s : State) : (consume n s).cerr = s.cerr := rfl
@[simp] theorem consume_bmpValid (n : Nat) (s : State) : (consume n s).bmpValid = s.bmpValid := rfl
@[simp] theorem consume_bmpBase (n : Nat) (s : State) : (consume n s).bmpBase = s.bmpBase := rfl
@[simp] theorem consume_alphaMode (n : Nat) (s : State) : (consume n s).alphaMode = s.alphaMode := rfl
@[simp] theorem consume_cpos (n : Nat) (s : State) : (consume n s).cpos = s.cpos := rfl
@[simp] theorem consume_bmp (n : Nat) (s : State) : (consume n s).bmp = s.bmp := rfl

/-! ## raiseDecode -/

@[simp] theorem raiseDecode_cfg (e : DecodeErr) (s : State) : (raiseDecode e s).cfg = s.cfg := rfl
@[simp] theorem raiseDecode_host (e : DecodeErr) (s : State) : (raiseDecode e s).host = s.host := rfl
@[simp] theorem raiseDecode_src (e : DecodeErr) (s : State) : (raiseDecode e s).src = s.src := rfl
@[simp] theorem raiseDecode_alloc (e : DecodeErr) (s : State) : (raiseDecode e s).alloc = s.alloc := rfl
@[simp] theorem raiseDecode_requests (e : DecodeErr) (s : State) : (raiseDecode e s).requests = s.requests := rfl
@[simp] theorem raiseDecode_draws (e : DecodeErr) (s : State) : (raiseDecode e s).draws = s.draws + 1 := rfl
@[simp] theorem raiseDecode_px (e : DecodeErr) (s : State) : (raiseDecode e s).px = Config.freePx s.draws := rfl
@[simp] theorem raiseDecode_idx (e : DecodeErr) (s : State) : (raiseDecode e s).idx = Config.freeIdx s.draws := rfl
@[simp] theorem raiseDecode_run (e : DecodeErr) (s : State) : (raiseDecode e s).run = Config.freeRun s.draws := rfl
@[simp] theorem raiseDecode_rdcnt (e : DecodeErr) (s : State) :
    (raiseDecode e s).rdcnt = Config.freeRdcnt s.draws := rfl
@[simp] theorem raiseDecode_pos (e : DecodeErr) (s : State) : (raiseDecode e s).pos = Config.freePos s.draws := rfl
@[simp] theorem raiseDecode_npix (e : DecodeErr) (s : State) : (raiseDecode e s).npix = Config.freeNpix s.draws := rfl
@[simp] theorem raiseDecode_hdrW (e : DecodeErr) (s : State) : (raiseDecode e s).hdrW = Config.freeHdrW s.draws := rfl
@[simp] theorem raiseDecode_hdrH (e : DecodeErr) (s : State) : (raiseDecode e s).hdrH = Config.freeHdrH s.draws := rfl
@[simp] theorem raiseDecode_hdrCh (e : DecodeErr) (s : State) :
    (raiseDecode e s).hdrCh = Config.freeHdrCh s.draws := rfl
@[simp] theorem raiseDecode_hdrCs (e : DecodeErr) (s : State) :
    (raiseDecode e s).hdrCs = Config.freeHdrCs s.draws := rfl
@[simp] theorem raiseDecode_dphase (e : DecodeErr) (s : State) : (raiseDecode e s).dphase = .err := rfl
@[simp] theorem raiseDecode_derr (e : DecodeErr) (s : State) : (raiseDecode e s).derr = e := rfl
@[simp] theorem raiseDecode_imgValid (e : DecodeErr) (s : State) : (raiseDecode e s).imgValid = false := rfl
@[simp] theorem raiseDecode_img (e : DecodeErr) (s : State) : (raiseDecode e s).img = [] := rfl
@[simp] theorem raiseDecode_cphase (e : DecodeErr) (s : State) : (raiseDecode e s).cphase = s.cphase := rfl
@[simp] theorem raiseDecode_cerr (e : DecodeErr) (s : State) : (raiseDecode e s).cerr = s.cerr := rfl
@[simp] theorem raiseDecode_bmpValid (e : DecodeErr) (s : State) : (raiseDecode e s).bmpValid = s.bmpValid := rfl
@[simp] theorem raiseDecode_bmpBase (e : DecodeErr) (s : State) : (raiseDecode e s).bmpBase = s.bmpBase := rfl
@[simp] theorem raiseDecode_alphaMode (e : DecodeErr) (s : State) : (raiseDecode e s).alphaMode = s.alphaMode := rfl
@[simp] theorem raiseDecode_cpos (e : DecodeErr) (s : State) : (raiseDecode e s).cpos = s.cpos := rfl
@[simp] theorem raiseDecode_bmp (e : DecodeErr) (s : State) : (raiseDecode e s).bmp = s.bmp := rfl

/-! ## raiseConvert -/

@[simp] theorem raiseConvert_cfg (s : State) : (raiseConvert s).cfg = s.cfg := rfl
@[simp] theorem raiseConvert_host (s : State) : (raiseConvert s).host = s.host := rfl
@[simp] theorem raiseConvert_src (s : State) : (raiseConvert s).src = s.src := rfl
@[simp] theorem raiseConvert_alloc (s : State) : (raiseConvert s).alloc = s.alloc := rfl
@[simp] theorem raiseConvert_requests (s : State) : (raiseConvert s).requests = s.requests := rfl
@[simp] theorem raiseConvert_draws (s : State) : (raiseConvert s).draws = s.draws := rfl
@[simp] theorem raiseConvert_px (s : State) : (raiseConvert s).px = s.px := rfl
@[simp] theorem raiseConvert_idx (s : State) : (raiseConvert s).idx = s.idx := rfl
@[simp] theorem raiseConvert_run (s : State) : (raiseConvert s).run = s.run := rfl
@[simp] theorem raiseConvert_rdcnt (s : State) : (raiseConvert s).rdcnt = s.rdcnt := rfl
@[simp] theorem raiseConvert_pos (s : State) : (raiseConvert s).pos = s.pos := rfl
@[simp] theorem raiseConvert_npix (s : State) : (raiseConvert s).npix = s.npix := rfl
@[simp] theorem raiseConvert_hdrW (s : State) : (raiseConvert s).hdrW = s.hdrW := rfl
@[simp] theorem raiseConvert_hdrH (s : State) : (raiseConvert s).hdrH = s.hdrH := rfl
@[simp] theorem raiseConvert_hdrCh (s : State) : (raiseConvert s).hdrCh = s.hdrCh := rfl
@[simp] theorem raiseConvert_hdrCs (s : State) : (raiseConvert s).hdrCs = s.hdrCs := rfl
@[simp] theorem raiseConvert_dphase (s : State) : (raiseConvert s).dphase = s.dphase := rfl
@[simp] theorem raiseConvert_derr (s : State) : (raiseConvert s).derr = s.derr := rfl
@[simp] theorem raiseConvert_imgValid (s : State) : (raiseConvert s).imgValid = s.imgValid := rfl
@[simp] theorem raiseConvert_img (s : State) : (raiseConvert s).img = s.img := rfl
@[simp] theorem raiseConvert_cphase (s : State) : (raiseConvert s).cphase = .err := rfl
@[simp] theorem raiseConvert_cerr (s : State) : (raiseConvert s).cerr = .allocationFailed := rfl
@[simp] theorem raiseConvert_bmpValid (s : State) : (raiseConvert s).bmpValid = s.bmpValid := rfl
@[simp] theorem raiseConvert_bmpBase (s : State) : (raiseConvert s).bmpBase = s.bmpBase := rfl
@[simp] theorem raiseConvert_alphaMode (s : State) : (raiseConvert s).alphaMode = s.alphaMode := rfl
@[simp] theorem raiseConvert_cpos (s : State) : (raiseConvert s).cpos = s.cpos := rfl
@[simp] theorem raiseConvert_bmp (s : State) : (raiseConvert s).bmp = s.bmp := rfl

/-! ## startDecode -/

@[simp] theorem startDecode_cfg (s : State) : (startDecode s).cfg = s.cfg := rfl
@[simp] theorem startDecode_host (s : State) : (startDecode s).host = s.host := rfl
@[simp] theorem startDecode_src (s : State) : (startDecode s).src = s.src := rfl
@[simp] theorem startDecode_alloc (s : State) : (startDecode s).alloc = s.alloc := rfl
@[simp] theorem startDecode_requests (s : State) : (startDecode s).requests = 0 := rfl
@[simp] theorem startDecode_draws (s : State) : (startDecode s).draws = s.draws := rfl
@[simp] theorem startDecode_px (s : State) : (startDecode s).px = Pixel.initial := rfl
@[simp] theorem startDecode_idx (s : State) : (startDecode s).idx = Vector.replicate 64 Pixel.zero := rfl
@[simp] theorem startDecode_run (s : State) : (startDecode s).run = 0 := rfl
@[simp] theorem startDecode_rdcnt (s : State) : (startDecode s).rdcnt = 0 := rfl
@[simp] theorem startDecode_pos (s : State) : (startDecode s).pos = 0 := rfl
@[simp] theorem startDecode_npix (s : State) : (startDecode s).npix = s.npix := rfl
@[simp] theorem startDecode_hdrW (s : State) : (startDecode s).hdrW = s.hdrW := rfl
@[simp] theorem startDecode_hdrH (s : State) : (startDecode s).hdrH = s.hdrH := rfl
@[simp] theorem startDecode_hdrCh (s : State) : (startDecode s).hdrCh = s.hdrCh := rfl
@[simp] theorem startDecode_hdrCs (s : State) : (startDecode s).hdrCs = s.hdrCs := rfl
@[simp] theorem startDecode_dphase (s : State) : (startDecode s).dphase = .hdr := rfl
@[simp] theorem startDecode_derr (s : State) : (startDecode s).derr = .none := rfl
@[simp] theorem startDecode_imgValid (s : State) : (startDecode s).imgValid = false := rfl
@[simp] theorem startDecode_img (s : State) : (startDecode s).img = s.img := rfl
@[simp] theorem startDecode_cphase (s : State) : (startDecode s).cphase = s.cphase := rfl
@[simp] theorem startDecode_cerr (s : State) : (startDecode s).cerr = s.cerr := rfl
@[simp] theorem startDecode_bmpValid (s : State) : (startDecode s).bmpValid = s.bmpValid := rfl
@[simp] theorem startDecode_bmpBase (s : State) : (startDecode s).bmpBase = s.bmpBase := rfl
@[simp] theorem startDecode_alphaMode (s : State) : (startDecode s).alphaMode = s.alphaMode := rfl
@[simp] theorem startDecode_cpos (s : State) : (startDecode s).cpos = s.cpos := rfl
@[simp] theorem startDecode_bmp (s : State) : (startDecode s).bmp = s.bmp := rfl

/-! ## startConvert -/

@[simp] theorem startConvert_cfg (s : State) : (startConvert s).cfg = s.cfg := rfl
@[simp] theorem startConvert_host (s : State) : (startConvert s).host = s.host := rfl
@[simp] theorem startConvert_src (s : State) : (startConvert s).src = s.src := rfl
@[simp] theorem startConvert_alloc (s : State) : (startConvert s).alloc = s.alloc := rfl
@[simp] theorem startConvert_requests (s : State) : (startConvert s).requests = s.requests := rfl
@[simp] theorem startConvert_draws (s : State) : (startConvert s).draws = s.draws := rfl
@[simp] theorem startConvert_px (s : State) : (startConvert s).px = s.px := rfl
@[simp] theorem startConvert_idx (s : State) : (startConvert s).idx = s.idx := rfl
@[simp] theorem startConvert_run (s : State) : (startConvert s).run = s.run := rfl
@[simp] theorem startConvert_rdcnt (s : State) : (startConvert s).rdcnt = s.rdcnt := rfl
@[simp] theorem startConvert_pos (s : State) : (startConvert s).pos = s.pos := rfl
@[simp] theorem startConvert_npix (s : State) : (startConvert s).npix = s.npix := rfl
@[simp] theorem startConvert_hdrW (s : State) : (startConvert s).hdrW = s.hdrW := rfl
@[simp] theorem startConvert_hdrH (s : State) : (startConvert s).hdrH = s.hdrH := rfl
@[simp] theorem startConvert_hdrCh (s : State) : (startConvert s).hdrCh = s.hdrCh := rfl
@[simp] theorem startConvert_hdrCs (s : State) : (startConvert s).hdrCs = s.hdrCs := rfl
@[simp] theorem startConvert_dphase (s : State) : (startConvert s).dphase = s.dphase := rfl
@[simp] theorem startConvert_derr (s : State) : (startConvert s).derr = s.derr := rfl
@[simp] theorem startConvert_imgValid (s : State) : (startConvert s).imgValid = s.imgValid := rfl
@[simp] theorem startConvert_img (s : State) : (startConvert s).img = s.img := rfl
@[simp] theorem startConvert_cphase (s : State) : (startConvert s).cphase = .alloc := rfl
@[simp] theorem startConvert_cerr (s : State) : (startConvert s).cerr = .none := rfl
@[simp] theorem startConvert_bmpValid (s : State) : (startConvert s).bmpValid = false := rfl
@[simp] theorem startConvert_bmpBase (s : State) : (startConvert s).bmpBase = s.bmpBase := rfl
@[simp] theorem startConvert_alphaMode (s : State) : (startConvert s).alphaMode = s.alphaMode := rfl
@[simp] theorem startConvert_cpos (s : State) : (startConvert s).cpos = 0 := rfl
@[simp] theorem startConvert_bmp (s : State) : (startConvert s).bmp = s.bmp := rfl

/-! ## grantSurface -/

@[simp] theorem grantSurface_cfg (b : Nat) (s : State) : (grantSurface b s).cfg = s.cfg := rfl
@[simp] theorem grantSurface_host (b : Nat) (s : State) : (grantSurface b s).host = s.host := rfl
@[simp] theorem grantSurface_src (b : Nat) (s : State) : (grantSurface b s).src = s.src := rfl
@[simp] theorem grantSurface_alloc (b : Nat) (s : State) : (grantSurface b s).alloc = none := rfl
@[simp] theorem grantSurface_requests (b : Nat) (s : State) : (grantSurface b s).requests = s.requests := rfl
@[simp] theorem grantSurface_draws (b : Nat) (s : State) : (grantSurface b s).draws = s.draws := rfl
@[simp] theorem grantSurface_px (b : Nat) (s : State) : (grantSurface b s).px = s.px := rfl
@[simp] theorem grantSurface_idx (b : Nat) (s : State) : (grantSurface b s).idx = s.idx := rfl
@[simp] theorem grantSurface_run (b : Nat) (s : State) : (grantSurface b s).run = s.run := rfl
@[simp] theorem grantSurface_rdcnt (b : Nat) (s : State) : (grantSurface b s).rdcnt = s.rdcnt := rfl
@[simp] theorem grantSurface_pos (b : Nat) (s : State) : (grantSurface b s).pos = s.pos := rfl
@[simp] theorem grantSurface_npix (b : Nat) (s : State) : (grantSurface b s).npix = s.npix := rfl
@[simp] theorem grantSurface_hdrW (b : Nat) (s : State) : (grantSurface b s).hdrW = s.hdrW := rfl
@[simp] theorem grantSurface_hdrH (b : Nat) (s : State) : (grantSurface b s).hdrH = s.hdrH := rfl
@[simp] theorem grantSurface_hdrCh (b : Nat) (s : State) : (grantSurface b s).hdrCh = s.hdrCh := rfl
@[simp] theorem grantSurface_hdrCs (b : Nat) (s : State) : (grantSurface b s).hdrCs = s.hdrCs := rfl
@[simp] theorem grantSurface_dphase (b : Nat) (s : State) : (grantSurface b s).dphase = s.dphase := rfl
@[simp] theorem grantSurface_derr (b : Nat) (s : State) : (grantSurface b s).derr = s.derr := rfl
@[simp] theorem grantSurface_imgValid (b : Nat) (s : State) : (grantSurface b s).imgValid = s.imgValid := rfl
@[simp] theorem grantSurface_img (b : Nat) (s : State) : (grantSurface b s).img = s.img := rfl
@[simp] theorem grantSurface_cphase (b : Nat) (s : State) : (grantSurface b s).cphase = .copy := rfl
@[simp] theorem grantSurface_cerr (b : Nat) (s : State) : (grantSurface b s).cerr = s.cerr := rfl
@[simp] theorem grantSurface_bmpValid (b : Nat) (s : State) : (grantSurface b s).bmpValid = s.bmpValid := rfl
@[simp] theorem grantSurface_bmpBase (b : Nat) (s : State) : (grantSurface b s).bmpBase = b := rfl
@[simp] theorem grantSurface_alphaMode (b : Nat) (s : State) : (grantSurface b s).alphaMode = s.alphaMode := rfl
@[simp] theorem grantSurface_cpos (b : Nat) (s : State) : (grantSurface b s).cpos = s.cpos := rfl
@[simp] theorem grantSurface_bmp (b : Nat) (s : State) :
    (grantSurface b s).bmp = Memory.forget s.bmp b (surfaceSize s.npix) := rfl

/-! ## resetCommand -/

@[simp] theorem resetCommand_cfg (s : State) : (resetCommand s).cfg = s.cfg := rfl
@[simp] theorem resetCommand_host (s : State) : (resetCommand s).host = s.host := rfl
@[simp] theorem resetCommand_src (s : State) : (resetCommand s).src = s.src := rfl
@[simp] theorem resetCommand_alloc (s : State) : (resetCommand s).alloc = none := rfl
@[simp] theorem resetCommand_requests (s : State) : (resetCommand s).requests = s.requests := rfl
@[simp] theorem resetCommand_draws (s : State) : (resetCommand s).draws = s.draws + 1 := rfl
@[simp] theorem resetCommand_px (s : State) : (resetCommand s).px = Config.freePx s.draws := rfl
@[simp] theorem resetCommand_idx (s : State) : (resetCommand s).idx = Config.freeIdx s.draws := rfl
@[simp] theorem resetCommand_run (s : State) : (resetCommand s).run = Config.freeRun s.draws := rfl
@[simp] theorem resetCommand_rdcnt (s : State) : (resetCommand s).rdcnt = Config.freeRdcnt s.draws := rfl
@[simp] theorem resetCommand_pos (s : State) : (resetCommand s).pos = Config.freePos s.draws := rfl
@[simp] theorem resetCommand_npix (s : State) : (resetCommand s).npix = Config.freeNpix s.draws := rfl
@[simp] theorem resetCommand_hdrW (s : State) : (resetCommand s).hdrW = Config.freeHdrW s.draws := rfl
@[simp] theorem resetCommand_hdrH (s : State) : (resetCommand s).hdrH = Config.freeHdrH s.draws := rfl
@[simp] theorem resetCommand_hdrCh (s : State) : (resetCommand s).hdrCh = Config.freeHdrCh s.draws := rfl
@[simp] theorem resetCommand_hdrCs (s : State) : (resetCommand s).hdrCs = Config.freeHdrCs s.draws := rfl
@[simp] theorem resetCommand_dphase (s : State) : (resetCommand s).dphase = .idle := rfl
@[simp] theorem resetCommand_derr (s : State) : (resetCommand s).derr = .none := rfl
@[simp] theorem resetCommand_imgValid (s : State) : (resetCommand s).imgValid = false := rfl
@[simp] theorem resetCommand_img (s : State) : (resetCommand s).img = [] := rfl
@[simp] theorem resetCommand_cphase (s : State) : (resetCommand s).cphase = .idle := rfl
@[simp] theorem resetCommand_cerr (s : State) : (resetCommand s).cerr = .none := rfl
@[simp] theorem resetCommand_bmpValid (s : State) : (resetCommand s).bmpValid = false := rfl
@[simp] theorem resetCommand_bmpBase (s : State) : (resetCommand s).bmpBase = Config.freeBmpBase s.draws := rfl
@[simp] theorem resetCommand_alphaMode (s : State) :
    (resetCommand s).alphaMode = AlphaMode.ofBit (Config.freeAlphaBit s.draws) := rfl
@[simp] theorem resetCommand_cpos (s : State) : (resetCommand s).cpos = Config.freeCpos s.draws := rfl
@[simp] theorem resetCommand_bmp (s : State) : (resetCommand s).bmp = s.bmp := rfl

/-! ## endIteration -/

@[simp] theorem endIteration_cfg (s : State) : (endIteration s).cfg = s.cfg := by unfold endIteration; split <;> rfl
@[simp] theorem endIteration_host (s : State) : (endIteration s).host = s.host := by unfold endIteration; split <;> rfl
@[simp] theorem endIteration_src (s : State) : (endIteration s).src = s.src := by unfold endIteration; split <;> rfl
@[simp] theorem endIteration_alloc (s : State) : (endIteration s).alloc = s.alloc := by unfold endIteration; split <;> rfl
@[simp] theorem endIteration_requests (s : State) : (endIteration s).requests = s.requests := by unfold endIteration; split <;> rfl
@[simp] theorem endIteration_draws (s : State) : (endIteration s).draws = s.draws := by unfold endIteration; split <;> rfl
@[simp] theorem endIteration_px (s : State) : (endIteration s).px = s.px := by unfold endIteration; split <;> rfl
@[simp] theorem endIteration_idx (s : State) : (endIteration s).idx = s.idx := by unfold endIteration; split <;> rfl
@[simp] theorem endIteration_run (s : State) : (endIteration s).run = s.run := by unfold endIteration; split <;> rfl
@[simp] theorem endIteration_rdcnt (s : State) : (endIteration s).rdcnt = s.rdcnt := by unfold endIteration; split <;> rfl
@[simp] theorem endIteration_pos (s : State) : (endIteration s).pos = s.pos := by unfold endIteration; split <;> rfl
@[simp] theorem endIteration_npix (s : State) : (endIteration s).npix = s.npix := by unfold endIteration; split <;> rfl
@[simp] theorem endIteration_hdrW (s : State) : (endIteration s).hdrW = s.hdrW := by unfold endIteration; split <;> rfl
@[simp] theorem endIteration_hdrH (s : State) : (endIteration s).hdrH = s.hdrH := by unfold endIteration; split <;> rfl
@[simp] theorem endIteration_hdrCh (s : State) : (endIteration s).hdrCh = s.hdrCh := by unfold endIteration; split <;> rfl
@[simp] theorem endIteration_hdrCs (s : State) : (endIteration s).hdrCs = s.hdrCs := by unfold endIteration; split <;> rfl
@[simp] theorem endIteration_derr (s : State) : (endIteration s).derr = s.derr := by unfold endIteration; split <;> rfl
@[simp] theorem endIteration_img (s : State) : (endIteration s).img = s.img := by unfold endIteration; split <;> rfl
@[simp] theorem endIteration_cphase (s : State) : (endIteration s).cphase = s.cphase := by unfold endIteration; split <;> rfl
@[simp] theorem endIteration_cerr (s : State) : (endIteration s).cerr = s.cerr := by unfold endIteration; split <;> rfl
@[simp] theorem endIteration_bmpValid (s : State) : (endIteration s).bmpValid = s.bmpValid := by unfold endIteration; split <;> rfl
@[simp] theorem endIteration_bmpBase (s : State) : (endIteration s).bmpBase = s.bmpBase := by unfold endIteration; split <;> rfl
@[simp] theorem endIteration_alphaMode (s : State) : (endIteration s).alphaMode = s.alphaMode := by unfold endIteration; split <;> rfl
@[simp] theorem endIteration_cpos (s : State) : (endIteration s).cpos = s.cpos := by unfold endIteration; split <;> rfl
@[simp] theorem endIteration_bmp (s : State) : (endIteration s).bmp = s.bmp := by unfold endIteration; split <;> rfl

/-! ## endCopy -/

@[simp] theorem endCopy_cfg (s : State) : (endCopy s).cfg = s.cfg := by unfold endCopy; split <;> rfl
@[simp] theorem endCopy_host (s : State) : (endCopy s).host = s.host := by unfold endCopy; split <;> rfl
@[simp] theorem endCopy_src (s : State) : (endCopy s).src = s.src := by unfold endCopy; split <;> rfl
@[simp] theorem endCopy_alloc (s : State) : (endCopy s).alloc = s.alloc := by unfold endCopy; split <;> rfl
@[simp] theorem endCopy_requests (s : State) : (endCopy s).requests = s.requests := by unfold endCopy; split <;> rfl
@[simp] theorem endCopy_draws (s : State) : (endCopy s).draws = s.draws := by unfold endCopy; split <;> rfl
@[simp] theorem endCopy_px (s : State) : (endCopy s).px = s.px := by unfold endCopy; split <;> rfl
@[simp] theorem endCopy_idx (s : State) : (endCopy s).idx = s.idx := by unfold endCopy; split <;> rfl
@[simp] theorem endCopy_run (s : State) : (endCopy s).run = s.run := by unfold endCopy; split <;> rfl
@[simp] theorem endCopy_rdcnt (s : State) : (endCopy s).rdcnt = s.rdcnt := by unfold endCopy; split <;> rfl
@[simp] theorem endCopy_pos (s : State) : (endCopy s).pos = s.pos := by unfold endCopy; split <;> rfl
@[simp] theorem endCopy_npix (s : State) : (endCopy s).npix = s.npix := by unfold endCopy; split <;> rfl
@[simp] theorem endCopy_hdrW (s : State) : (endCopy s).hdrW = s.hdrW := by unfold endCopy; split <;> rfl
@[simp] theorem endCopy_hdrH (s : State) : (endCopy s).hdrH = s.hdrH := by unfold endCopy; split <;> rfl
@[simp] theorem endCopy_hdrCh (s : State) : (endCopy s).hdrCh = s.hdrCh := by unfold endCopy; split <;> rfl
@[simp] theorem endCopy_hdrCs (s : State) : (endCopy s).hdrCs = s.hdrCs := by unfold endCopy; split <;> rfl
@[simp] theorem endCopy_dphase (s : State) : (endCopy s).dphase = s.dphase := by unfold endCopy; split <;> rfl
@[simp] theorem endCopy_derr (s : State) : (endCopy s).derr = s.derr := by unfold endCopy; split <;> rfl
@[simp] theorem endCopy_imgValid (s : State) : (endCopy s).imgValid = s.imgValid := by unfold endCopy; split <;> rfl
@[simp] theorem endCopy_img (s : State) : (endCopy s).img = s.img := by unfold endCopy; split <;> rfl
@[simp] theorem endCopy_cerr (s : State) : (endCopy s).cerr = s.cerr := by unfold endCopy; split <;> rfl
@[simp] theorem endCopy_bmpBase (s : State) : (endCopy s).bmpBase = s.bmpBase := by unfold endCopy; split <;> rfl
@[simp] theorem endCopy_cpos (s : State) : (endCopy s).cpos = s.cpos := by unfold endCopy; split <;> rfl
@[simp] theorem endCopy_bmp (s : State) : (endCopy s).bmp = s.bmp := by unfold endCopy; split <;> rfl

end Sys2Proof.Machine
end

