-- ==== Sys2Proof/Laws/Memory.lean ====
section
/-! SUPPORT. The laws of a store: every operation keeps the canonical form, a read after a write gives the value
written, and a write leaves every other address alone. -/

namespace Sys2Proof.Machine

/-! ## The canonical form -/

/-- An address a write lists is the one it writes or one listed before. -/
theorem Memory.mem_write {m : Memory} {a : Nat} {v : Byte} {c : Host.Cell} (h : c ∈ Memory.write m a v) :
    c = (a, v) ∨ c ∈ m := by
  induction m with
  | nil => simpa [Memory.write] using h
  | cons d m ih =>
    simp only [Memory.write] at h
    split at h
    · simpa using h
    · split at h
      · rcases List.mem_cons.1 h with h | h
        · exact .inl h
        · exact .inr (List.mem_cons_of_mem _ h)
      · rcases List.mem_cons.1 h with h | h
        · exact .inr (h ▸ List.mem_cons_self)
        · exact (ih h).imp_right (List.mem_cons_of_mem _)

theorem Memory.write_wf {m : Memory} (h : Memory.wf m) (a : Nat) (v : Byte) : Memory.wf (Memory.write m a v) := by
  induction m with
  | nil => simp [Memory.write, Memory.wf]
  | cons d m ih =>
    obtain ⟨hd, hm⟩ := List.pairwise_cons.1 h
    simp only [Memory.write]
    split
    · rename_i hlt
      refine List.pairwise_cons.2 ⟨fun c hc => ?_, h⟩
      rcases List.mem_cons.1 hc with rfl | hc
      · exact hlt
      · exact lt_trans hlt (hd c hc)
    · split
      · rename_i heq
        exact List.pairwise_cons.2 ⟨fun c hc => heq ▸ hd c hc, hm⟩
      · rename_i hge hne
        refine List.pairwise_cons.2 ⟨fun c hc => ?_, ih hm⟩
        rcases Memory.mem_write hc with rfl | hc
        · show d.1 < a
          omega
        · exact hd c hc

theorem Memory.writeFour_wf {m : Memory} (h : Memory.wf m) (a : Nat) (b0 b1 b2 b3 : Byte) :
    Memory.wf (Memory.writeFour m a b0 b1 b2 b3) :=
  Memory.write_wf (Memory.write_wf (Memory.write_wf (Memory.write_wf h _ _) _ _) _ _) _ _

theorem Memory.forget_wf {m : Memory} (h : Memory.wf m) (lo n : Nat) : Memory.wf (Memory.forget m lo n) :=
  List.Pairwise.filter _ h

theorem writeSlot_wf {m : Memory} (h : Memory.wf m) (k : Nat) (p : Pixel) : Memory.wf (writeSlot m k p) :=
  Memory.writeFour_wf h _ _ _ _ _

theorem writeSurfacePixel_wf {m : Memory} (h : Memory.wf m) (base k : Nat) (p : Pixel) :
    Memory.wf (writeSurfacePixel m base k p) :=
  Memory.writeFour_wf h _ _ _ _ _

theorem reset_stores_wf : Memory.wf State.reset.img ∧ Memory.wf State.reset.bmp := by decide

/-! ## Reads -/

/-- A read after a write: the value at the address written, what was there before elsewhere. -/
theorem Memory.read_write (m : Memory) (a : Nat) (v : Byte) (x : Nat) :
    Memory.read (Memory.write m a v) x = if x = a then some v else Memory.read m x := by
  induction m with
  | nil => simp [Memory.write, Memory.read, eq_comm]
  | cons d m ih =>
    simp only [Memory.write]
    split
    · rename_i hlt
      simp only [Memory.read]
      by_cases h : x = a
      · simp [h]
      · simp [h, Ne.symm h]
    · split
      · rename_i heq
        simp only [Memory.read, heq]
        by_cases h : x = d.1
        · simp [h]
        · simp [h, Ne.symm h]
      · rename_i hge hne
        simp only [Memory.read]
        by_cases hx : d.1 = x
        · have : ¬ x = a := by omega
          simp [hx, this]
        · simp [hx, ih]

theorem Memory.read_writeFour (m : Memory) (a : Nat) (b0 b1 b2 b3 : Byte) (x : Nat) :
    Memory.read (Memory.writeFour m a b0 b1 b2 b3) x =
      if x = a + 3 then some b3 else if x = a + 2 then some b2 else if x = a + 1 then some b1
      else if x = a then some b0 else Memory.read m x := by
  simp only [Memory.writeFour, Memory.read_write]

/-- Four bytes written leave every address outside them alone. -/
theorem Memory.read_writeFour_outside (m : Memory) (a : Nat) (b0 b1 b2 b3 : Byte) {x : Nat}
    (h : x < a ∨ a + 4 ≤ x) : Memory.read (Memory.writeFour m a b0 b1 b2 b3) x = Memory.read m x := by
  rw [Memory.read_writeFour, if_neg, if_neg, if_neg, if_neg] <;> omega

/-- A forgotten region has no value; every other address keeps its own. -/
theorem Memory.read_forget (m : Memory) (lo n x : Nat) :
    Memory.read (Memory.forget m lo n) x = if lo ≤ x ∧ x < lo + n then none else Memory.read m x := by
  induction m with
  | nil => simp [Memory.forget, Memory.read]
  | cons d m ih =>
    unfold Memory.forget at ih ⊢
    rw [List.filter_cons]
    by_cases hd : lo ≤ d.1 ∧ d.1 < lo + n
    · simp only [hd, decide_true, Bool.and_self, Bool.not_true, Bool.false_eq_true, if_false, ih, Memory.read]
      by_cases hx : d.1 = x
      · simp [← hx, hd]
      · simp [hx]
    · have hk : (!(decide (lo ≤ d.1) && decide (d.1 < lo + n))) = true := by simpa [not_and, or_iff_not_imp_left] using hd
      simp only [hk, if_true, Memory.read, ih]
      by_cases hx : d.1 = x
      · subst hx
        simp [hd]
      · simp [hx]

/-! ## Pixels -/

theorem readSlot_eq_some {m : Memory} {k : Nat} {p : Pixel} :
    readSlot m k = some p ↔ Memory.read m (slotAddr k) = some p.r ∧ Memory.read m (slotAddr k + 1) = some p.g ∧
      Memory.read m (slotAddr k + 2) = some p.b ∧ Memory.read m (slotAddr k + 3) = some p.a := by
  unfold readSlot
  constructor
  · intro h
    split at h
    · cases h
      simp_all
    · cases h
  · rintro ⟨h0, h1, h2, h3⟩
    simp [h0, h1, h2, h3]

/-- The slot written reads as the pixel written. -/
theorem readSlot_writeSlot_same (m : Memory) (k : Nat) (p : Pixel) : readSlot (writeSlot m k p) k = some p := by
  rw [readSlot_eq_some]
  simp [writeSlot, Memory.read_writeFour]

/-- A slot depends only on its own four bytes. -/
theorem readSlot_congr {m m' : Memory} {k : Nat}
    (h : ∀ a, slotAddr k ≤ a → a < slotAddr k + 4 → Memory.read m a = Memory.read m' a) :
    readSlot m k = readSlot m' k := by
  unfold readSlot
  rw [h _ (by omega) (by omega), h (slotAddr k + 1) (by omega) (by omega), h (slotAddr k + 2) (by omega) (by omega),
    h (slotAddr k + 3) (by omega) (by omega)]

/-- Writing one slot leaves every other slot alone. -/
theorem readSlot_writeSlot_other (m : Memory) {j k : Nat} (p : Pixel) (h : j ≠ k) :
    readSlot (writeSlot m k p) j = readSlot m j :=
  readSlot_congr fun a h1 h2 => Memory.read_writeFour_outside _ _ _ _ _ _ (by unfold slotAddr at *; omega)

/-- The surface pixel written holds its pixel. -/
theorem holdsPixel_write_same (m : Memory) (base k : Nat) (p : Pixel) :
    HoldsPixel (writeSurfacePixel m base k p) base k p := by
  simp [HoldsPixel, writeSurfacePixel, Memory.read_writeFour]

/-- Writing one surface pixel leaves every other surface pixel alone. -/
theorem holdsPixel_write_other {m : Memory} {base j k : Nat} {p q : Pixel} (h : j ≠ k) (hq : HoldsPixel m base j q) :
    HoldsPixel (writeSurfacePixel m base k p) base j q := by
  obtain ⟨h0, h1, h2, h3⟩ := hq
  unfold HoldsPixel writeSurfacePixel
  rw [Memory.read_writeFour_outside, Memory.read_writeFour_outside, Memory.read_writeFour_outside,
    Memory.read_writeFour_outside]
  · exact ⟨h0, h1, h2, h3⟩
  all_goals unfold surfaceAddr; omega

/-! ## The index cache -/

/-- A read of the index cache after a write. -/
theorem idxRead_idxWrite (idx : IndexCache) (i j : BitVec 6) (p : Pixel) :
    idxRead (idxWrite idx i p) j = if j = i then p else idxRead idx j := by
  unfold idxRead idxWrite
  rw [Vector.getElem_set]
  by_cases h : i.toNat = j.toNat
  · simp [BitVec.eq_of_toNat_eq h]
  · have : ¬ j = i := fun e => h (by rw [e])
    simp [h, this]

/-- Every entry of the cache START_DECODE leaves is the zero pixel. -/
@[simp] theorem idxRead_replicate (p : Pixel) (i : BitVec 6) : idxRead (Vector.replicate 64 p) i = p := by
  simp [idxRead]

end Sys2Proof.Machine
end

