-- ==== Sys2Proof/Laws/Ops.lean ====
section
/-! SUPPORT. What each shared operation of an opcode, of an error and of the permuter does, said once. -/

namespace Sys2Proof.Machine

/-! ## End of an iteration and of a copy step -/

theorem endIteration_last {s : State} (h : s.pos = s.npix) :
    (endIteration s).imgValid = true ∧ (endIteration s).dphase = .ok := by
  simp [endIteration, h]

theorem endIteration_more {s : State} (h : s.pos ≠ s.npix) : endIteration s = s := by
  simp [endIteration, h]

theorem endCopy_last {s : State} (h : s.cpos = s.npix) :
    (endCopy s).alphaMode = alphaModeOf s.hdrCh ∧ (endCopy s).bmpValid = true ∧ (endCopy s).cphase = .ok := by
  simp [endCopy, h]

theorem endCopy_more {s : State} (h : s.cpos ≠ s.npix) : endCopy s = s := by
  simp [endCopy, h]

/-! ## An opcode's pixel -/

/-- Emit(PX) and the end-of-decode test leave every field they do not name. -/
theorem emitPx_frame (s : State) : OpcodeFrame s (emitPx s) ∧ (emitPx s).px = s.px ∧ (emitPx s).idx = s.idx ∧
    (emitPx s).run = s.run := by
  simp [OpcodeFrame, KeepsConvertSide, KeepsHeader, emitPx]

/-- Emit(PX) writes slot POS and the end-of-decode test sets IMG_VALID and DPHASE (R133, R134). -/
theorem emitPx_emitted (s : State) : Emitted s (emitPx s) := by
  refine ⟨?_, fun a ha => ?_, by simp [emitPx], fun h => ?_, fun h => ?_⟩
  · simp [emitPx, readSlot_writeSlot_same]
  · simpa [emitPx, writeSlot] using Memory.read_writeFour_outside _ _ _ _ _ _ ha
  · exact endIteration_last (by simpa using h)
  · rw [emitPx, endIteration_more (by simpa using h)]
    simp

/-- What the five opcodes that make a new pixel do (R122, R133, R134). -/
theorem producePixel_produces (p : Pixel) (s : State) : Produces s (producePixel p s) p := by
  have hf := emitPx_frame (indexUpdate (setPx p s))
  have he := emitPx_emitted (indexUpdate (setPx p s))
  refine ⟨by simpa [producePixel] using hf.2.1, fun i => ?_, by simpa [producePixel, Emitted] using he,
    by simpa [producePixel] using hf.2.2.2, by simpa [producePixel, OpcodeFrame, KeepsConvertSide, KeepsHeader] using hf.1⟩
  have hidx : (producePixel p s).idx = idxWrite s.idx (pixelHash p) p := by simp [producePixel, emitPx]
  have hpx : (producePixel p s).px = p := by simp [producePixel, emitPx]
  rw [hidx, hpx, idxRead_idxWrite]

/-! ## Errors -/

/-- Decode error entry (R184), after `n` requests. -/
theorem raiseDecode_failed (e : DecodeErr) (s : State) (n : Nat) :
    DecodeFailed s (raiseDecode e (consume n s)) e n := by
  simp [DecodeFailed, KeepsConvertSide, Memory.read]

end Sys2Proof.Machine
end

