-- ==== Sys2Proof/Laws/Fetch.lean ====
section
/-! SUPPORT. What reading the source comes to: one lemma for what a read answers when the source supplies a byte, ends or
is silent, and one inversion lemma for each read. -/

namespace Sys2Proof.Machine

@[simp] theorem consume_consume (m n : Nat) (s : State) : consume m (consume n s) = consume (n + m) s := by
  simp [consume, Nat.add_assoc]

theorem consume_zero (s : State) : consume 0 s = s := rfl

@[simp] theorem supplies_consume (n k : Nat) (v : Byte) (s : State) :
    Supplies (consume n s) k v ↔ Supplies s (n + k) v := by
  simp [Supplies, Nat.add_assoc]

@[simp] theorem answers_consume (n k : Nat) (v : Byte) (s : State) :
    Answers (consume n s) k v ↔ Answers s (n + k) v := by
  simp [Answers, Nat.add_assoc]

@[simp] theorem ends_consume (n k : Nat) (s : State) : Ends (consume n s) k ↔ Ends s (n + k) := by
  simp [Ends, Nat.add_assoc]

@[simp] theorem unanswered_consume (n k : Nat) (s : State) :
    Unanswered (consume n s) k ↔ Unanswered s (n + k) := by
  simp [Unanswered, Nat.add_assoc]

theorem suppliesAll_cons {s : State} {b : Byte} {bs : List Byte} :
    SuppliesAll s (b :: bs) ↔ Supplies s 0 b ∧ SuppliesAll (consume 1 s) bs := by
  constructor
  · intro h
    refine ⟨h 0 b rfl, fun k v hk => ?_⟩
    rw [supplies_consume, Nat.add_comm]
    exact h (k + 1) v hk
  · rintro ⟨h0, h1⟩ k v hk
    cases k with
    | zero => cases hk; exact h0
    | succ k =>
      have := h1 k v hk
      rwa [supplies_consume, Nat.add_comm] at this

theorem suppliesAll_nil (s : State) : SuppliesAll s [] := fun _ _ h => by simp at h

/-! ## One byte -/

theorem readByte_of_supplies {s : State} {v : Byte} (h : Supplies s 0 v) : readByte s = .got v (consume 1 s) := by
  rcases h with h | ⟨h, hl, rfl⟩ <;> simp only [Nat.add_zero] at h <;>
    simp [readByte, requestByte, Port.andThen, *]

theorem readByte_of_ends {s : State} (h : Ends s 0) (hl : s.cfg.lenientRead = false) :
    readByte s = .raised (raiseDecode .streamExhausted (consume 1 s)) := by
  simp only [Ends, Nat.add_zero] at h
  simp [readByte, requestByte, h, Port.andThen, hl]

theorem readByte_of_unanswered {s : State} (h : Unanswered s 0) : readByte s = .waiting := by
  simp only [Unanswered, Nat.add_zero] at h
  simp [readByte, requestByte, h, Port.andThen]

/-- Every source supplies the next byte, ends in strict mode, or is silent. -/
theorem source_trichotomy (s : State) (k : Nat) :
    (∃ v, Supplies s k v) ∨ (Ends s k ∧ s.cfg.lenientRead = false) ∨ Unanswered s k := by
  unfold Supplies Ends Unanswered
  cases h : Source.answer s.src (s.rdcnt + k) with
  | none => simp
  | some a =>
    cases a with
    | byte v => exact .inl ⟨v, .inl rfl⟩
    | exhausted =>
      cases hl : s.cfg.lenientRead with
      | true => exact .inl ⟨0, .inr ⟨rfl, rfl, rfl⟩⟩
      | false => exact .inr (.inl ⟨rfl, rfl⟩)

theorem readMagicByte_of_answers {s : State} {v : Byte} (h : Answers s 0 v) :
    readMagicByte s = .got v (consume 1 s) := by
  simp only [Answers, Nat.add_zero] at h
  simp [readMagicByte, requestByte, h, Port.andThen]

theorem readMagicByte_of_ends {s : State} (h : Ends s 0) :
    readMagicByte s = .raised (raiseDecode .invalidMagic (consume 1 s)) := by
  simp only [Ends, Nat.add_zero] at h
  simp [readMagicByte, requestByte, h, Port.andThen]

theorem readMagicByte_of_unanswered {s : State} (h : Unanswered s 0) : readMagicByte s = .waiting := by
  simp only [Unanswered, Nat.add_zero] at h
  simp [readMagicByte, requestByte, h, Port.andThen]

/-! ## Several bytes -/

theorem readBytes_zero (s : State) : readBytes 0 s = .got [] s := rfl

theorem readBytes_succ (n : Nat) (s : State) : readBytes (n + 1) s =
    (readByte s).andThen fun b t => (readBytes n t).andThen fun bs u => .got (b :: bs) u := rfl

theorem readBytes_of_supplies {s : State} {bs : List Byte} (h : SuppliesAll s bs) :
    readBytes bs.length s = .got bs (consume bs.length s) := by
  induction bs generalizing s with
  | nil => rfl
  | cons b bs ih =>
    obtain ⟨h0, h1⟩ := suppliesAll_cons.1 h
    rw [List.length_cons, readBytes_succ, readByte_of_supplies h0]
    simp [Port.andThen, ih h1, Nat.add_comm]

/-- `n` reads with a read whose one-byte behaviour is known: all give a byte, or the first that ends raises `e`, or the
first silent one waits. `P` says that a read ahead gives a byte, `E` that it ends. -/
theorem readMany_cases {read : State → Port Byte} {e : DecodeErr} {P : State → Nat → Byte → Prop}
    {E : State → Nat → Prop}
    (hP : ∀ s k v, P (consume 1 s) k v ↔ P s (k + 1) v) (hE : ∀ s k, E (consume 1 s) k ↔ E s (k + 1))
    (hread : ∀ s, (∃ v, P s 0 v ∧ read s = .got v (consume 1 s)) ∨
      (E s 0 ∧ read s = .raised (raiseDecode e (consume 1 s))) ∨ (Unanswered s 0 ∧ read s = .waiting))
    (n : Nat) (s : State) :
    (∃ bs, bs.length = n ∧ (∀ k v, bs[k]? = some v → P s k v) ∧ readMany read n s = .got bs (consume n s)) ∨
    (∃ k, k < n ∧ (∀ j, j < k → ∃ v, P s j v) ∧ E s k ∧
      readMany read n s = .raised (raiseDecode e (consume (k + 1) s))) ∨
    (∃ k, k < n ∧ (∀ j, j < k → ∃ v, P s j v) ∧ Unanswered s k ∧ readMany read n s = .waiting) := by
  induction n generalizing s with
  | zero => exact .inl ⟨[], rfl, fun _ _ h => by simp at h, rfl⟩
  | succ n ih =>
    rcases hread s with ⟨v, h0, hr0⟩ | ⟨h0, hr0⟩ | ⟨h0, hr0⟩
    · have hstep : readMany read (n + 1) s =
          (readMany read n (consume 1 s)).andThen fun bs u => .got (v :: bs) u := by
        rw [readMany, hr0]
        rfl
      have hj : ∀ k, (∀ j, j < k → ∃ w, P (consume 1 s) j w) → ∀ j, j < k + 1 → ∃ w, P s j w := by
        intro k hk j hlt
        cases j with
        | zero => exact ⟨v, h0⟩
        | succ j =>
          obtain ⟨w, hw⟩ := hk j (by omega)
          exact ⟨w, (hP s j w).1 hw⟩
      rcases ih (consume 1 s) with ⟨bs, hl, hs, hr⟩ | ⟨k, hk, hs, he, hr⟩ | ⟨k, hk, hs, hu, hr⟩
      · refine .inl ⟨v :: bs, by simp [hl], fun k w hw => ?_, ?_⟩
        · cases k with
          | zero => cases hw; exact h0
          | succ k => exact (hP s k w).1 (hs k w hw)
        · rw [hstep, hr]
          simp [Port.andThen, Nat.add_comm]
      · refine .inr (.inl ⟨k + 1, by omega, hj k hs, (hE s k).1 he, ?_⟩)
        rw [hstep, hr]
        simp [Port.andThen, Nat.add_comm]
      · refine .inr (.inr ⟨k + 1, by omega, hj k hs, ?_, ?_⟩)
        · rwa [unanswered_consume, Nat.add_comm] at hu
        · rw [hstep, hr]
          rfl
    · refine .inr (.inl ⟨0, by omega, fun _ h => by omega, h0, ?_⟩)
      rw [readMany, hr0]
      rfl
    · refine .inr (.inr ⟨0, by omega, fun _ h => by omega, h0, ?_⟩)
      rw [readMany, hr0]
      rfl

/-- `n` calls of `ReadByte()` (R52): all supplied, or the first missing byte raises StreamExhausted in strict mode, or
the first silent one waits. -/
theorem readBytes_cases (n : Nat) (s : State) :
    (∃ bs, bs.length = n ∧ SuppliesAll s bs ∧ readBytes n s = .got bs (consume n s)) ∨
    (∃ k, k < n ∧ (∀ j, j < k → ∃ v, Supplies s j v) ∧ (Ends s k ∧ s.cfg.lenientRead = false) ∧
      readBytes n s = .raised (raiseDecode .streamExhausted (consume (k + 1) s))) ∨
    (∃ k, k < n ∧ (∀ j, j < k → ∃ v, Supplies s j v) ∧ Unanswered s k ∧ readBytes n s = .waiting) := by
  refine readMany_cases (P := Supplies) (E := fun s k => Ends s k ∧ s.cfg.lenientRead = false)
    (fun s k v => by simp [Nat.add_comm]) (fun s k => by simp [Nat.add_comm]) (fun s => ?_) n s
  rcases source_trichotomy s 0 with ⟨v, h⟩ | h | h
  · exact .inl ⟨v, h, readByte_of_supplies h⟩
  · exact .inr (.inl ⟨h, readByte_of_ends h.1 h.2⟩)
  · exact .inr (.inr ⟨h, readByte_of_unanswered h⟩)

/-- The four magic reads (R102): all answered with bytes, or the first `Exhausted` raises InvalidMagic in either read
mode, or the first silent one waits. -/
theorem readMagicBytes_cases (n : Nat) (s : State) :
    (∃ bs, bs.length = n ∧ (∀ k v, bs[k]? = some v → Answers s k v) ∧
      readMany readMagicByte n s = .got bs (consume n s)) ∨
    (∃ k, k < n ∧ (∀ j, j < k → ∃ v, Answers s j v) ∧ Ends s k ∧
      readMany readMagicByte n s = .raised (raiseDecode .invalidMagic (consume (k + 1) s))) ∨
    (∃ k, k < n ∧ (∀ j, j < k → ∃ v, Answers s j v) ∧ Unanswered s k ∧
      readMany readMagicByte n s = .waiting) := by
  refine readMany_cases (P := Answers) (E := Ends) (fun s k v => by simp [Nat.add_comm])
    (fun s k => by simp [Nat.add_comm]) (fun s => ?_) n s
  cases h : Source.answer s.src (s.rdcnt + 0) with
  | none => exact .inr (.inr ⟨h, readMagicByte_of_unanswered h⟩)
  | some a =>
    cases a with
    | byte v => exact .inl ⟨v, h, readMagicByte_of_answers h⟩
    | exhausted => exact .inr (.inl ⟨h, readMagicByte_of_ends h⟩)

/-! ## One opcode's bytes -/

theorem opcodeLength_pos (b : Byte) : 1 ≤ opcodeLength b := by
  unfold opcodeLength
  split <;> (try split) <;> (try split) <;> omega

theorem opcodeLength_le (b : Byte) : opcodeLength b ≤ 5 := by
  unfold opcodeLength
  split <;> (try split) <;> (try split) <;> omega

/-- The fetch: all the opcode's bytes, or the first missing one raises StreamExhausted, or the first silent one waits. -/
theorem fetch_cases (s : State) :
    (∃ b1 extra, extra.length = opcodeLength b1 - 1 ∧ SuppliesAll s (b1 :: extra) ∧
      fetch s = .got (b1 :: extra) (consume (opcodeLength b1) s)) ∨
    (∃ k, k < 5 ∧ (∀ j, j < k → ∃ v, Supplies s j v) ∧ Ends s k ∧ s.cfg.lenientRead = false ∧
      fetch s = .raised (raiseDecode .streamExhausted (consume (k + 1) s))) ∨
    (∃ k, k < 5 ∧ (∀ j, j < k → ∃ v, Supplies s j v) ∧ Unanswered s k ∧ fetch s = .waiting) := by
  rcases source_trichotomy s 0 with ⟨b1, h0⟩ | ⟨h0, hl⟩ | h0
  · have hf : fetch s = (readBytes (opcodeLength b1 - 1) (consume 1 s)).andThen
        fun extra u => .got (b1 :: extra) u := by
      rw [fetch, readByte_of_supplies h0]
      rfl
    have hpos := opcodeLength_pos b1
    have hle := opcodeLength_le b1
    have hj : ∀ k, (∀ j, j < k → ∃ w, Supplies (consume 1 s) j w) → ∀ j, j < k + 1 → ∃ w, Supplies s j w := by
      intro k hk j hlt
      cases j with
      | zero => exact ⟨b1, h0⟩
      | succ j =>
        obtain ⟨w, hw⟩ := hk j (by omega)
        exact ⟨w, by rwa [supplies_consume, Nat.add_comm] at hw⟩
    rcases readBytes_cases (opcodeLength b1 - 1) (consume 1 s) with ⟨bs, hl, hs, hr⟩ | ⟨k, hk, hs, ⟨he, hl⟩, hr⟩ |
      ⟨k, hk, hs, hu, hr⟩
    · refine .inl ⟨b1, bs, hl, suppliesAll_cons.2 ⟨h0, hs⟩, ?_⟩
      rw [hf, hr]
      simp only [Port.andThen, consume_consume]
      rw [show 1 + (opcodeLength b1 - 1) = opcodeLength b1 by omega]
    · refine .inr (.inl ⟨k + 1, by omega, hj k hs, ?_, by simpa using hl, ?_⟩)
      · rwa [ends_consume, Nat.add_comm] at he
      · rw [hf, hr]
        simp [Port.andThen, Nat.add_comm]
    · refine .inr (.inr ⟨k + 1, by omega, hj k hs, ?_, ?_⟩)
      · rwa [unanswered_consume, Nat.add_comm] at hu
      · rw [hf, hr]
        rfl
  · refine .inr (.inl ⟨0, by omega, fun _ h => by omega, h0, hl, ?_⟩)
    rw [fetch, readByte_of_ends h0 hl]
    rfl
  · refine .inr (.inr ⟨0, by omega, fun _ h => by omega, h0, ?_⟩)
    rw [fetch, readByte_of_unanswered h0]
    rfl

end Sys2Proof.Machine
end

