-- ==== Sys2Proof/Laws/Step.lean ====
section
/-! SUPPORT. What the core's steps and the host's moves can come to: one inversion lemma each. -/

namespace Sys2Proof.Machine

/-! ## Opcodes -/

/-- Every opcode's meaning answers a next state, keeps the opcode frame and emits its pixel (R131). -/
theorem exec_emits (i : Instr) (s : State) :
    ∃ t, exec i s = .next t ∧ OpcodeFrame s t ∧ Emitted s t := by
  have hp : ∀ p, OpcodeFrame s (producePixel p s) ∧ Emitted s (producePixel p s) := fun p =>
    ⟨(producePixel_produces p s).2.2.2.2, (producePixel_produces p s).2.2.1⟩
  cases i with
  | rgb r g b => exact ⟨_, rfl, hp _⟩
  | rgba r g b a => exact ⟨_, rfl, hp _⟩
  | index i => exact ⟨_, rfl, hp _⟩
  | diff dr dg db => exact ⟨_, rfl, hp _⟩
  | luma vg drg dbg => exact ⟨_, rfl, hp _⟩
  | run n => exact ⟨_, rfl, (emitPx_frame _).1, emitPx_emitted _⟩

/-- The length of an opcode, by its name (R71, R72). -/
theorem opcodeLength_select (b1 : Byte) : opcodeLength b1 =
    match select b1 with
    | .rgb => 4
    | .rgba => 5
    | .luma => 2
    | .index | .diff | .run => 1 := by
  by_cases h1 : b1 = 0xFE
  · subst h1; rfl
  by_cases h2 : b1 = 0xFF
  · subst h2; rfl
  have h4 : tag b1 < 4 := Nat.mod_lt _ (by norm_num)
  rw [opcodeLength, select, if_neg h1, if_neg h2, if_neg h1, if_neg h2]
  by_cases t0 : tag b1 = 0
  · simp [t0]
  by_cases t1 : tag b1 = 1
  · simp [t1]
  by_cases t2 : tag b1 = 2
  · simp [t2]
  · simp [t0, t1, t2]

/-- The bytes a fetch gathers decode to an instruction, with none left over (R72, R81). -/
theorem decode_fetched {b1 : Byte} {extra : List Byte} (h : extra.length = opcodeLength b1 - 1) :
    ∃ i, decode (b1 :: extra) = .ok (i, []) := by
  rw [opcodeLength_select] at h
  unfold decode
  cases hs : select b1 <;> simp only [hs] at h ⊢
  case rgb => match extra, h with | [r, g, b], _ => exact ⟨_, rfl⟩
  case rgba => match extra, h with | [r, g, b, a], _ => exact ⟨_, rfl⟩
  case luma => match extra, h with | [b2], _ => exact ⟨_, rfl⟩
  all_goals match extra, h with | [], _ => exact ⟨_, rfl⟩

/-- An opcode iteration (R131): the fetched bytes' instruction is executed, or a missing byte raises StreamExhausted, or
it waits. -/
theorem opcodeIteration_cases (s : State) :
    (∃ b1 extra i, SuppliesAll s (b1 :: extra) ∧ decode (b1 :: extra) = .ok (i, []) ∧
      opcodeIteration s = exec i (consume (opcodeLength b1) s)) ∨
    (∃ k, k < 5 ∧ Ends s k ∧ s.cfg.lenientRead = false ∧
      opcodeIteration s = .next (raiseDecode .streamExhausted (consume (k + 1) s))) ∨
    (∃ k, k < 5 ∧ Unanswered s k ∧ opcodeIteration s = .fault .awaitingByte) := by
  rcases fetch_cases s with ⟨b1, extra, hl, hs, hf⟩ | ⟨k, hk, _, he, hl, hf⟩ | ⟨k, hk, _, hu, hf⟩
  · obtain ⟨i, hi⟩ := decode_fetched hl
    exact .inl ⟨b1, extra, i, hs, hi, by simp [opcodeIteration, hf, hi]⟩
  · exact .inr (.inl ⟨k, hk, he, hl, by simp [opcodeIteration, hf]⟩)
  · exact .inr (.inr ⟨k, hk, hu, by simp [opcodeIteration, hf]⟩)

/-! ## The header step -/

/-- The header step (R101 to R107): the fields are loaded and checked; or the magic is wrong or cut short; or a field
byte is missing; or it waits. -/
theorem headerStep_cases (s : State) :
    (∃ m fs, m.length = 4 ∧ (∀ k v, m[k]? = some v → Answers s k v) ∧ ofBigEndian m = magic ∧
      fs.length = 10 ∧ SuppliesAll (consume 4 s) fs ∧
      headerStep s = .next (acceptHeader (loadFields fs (consume 14 s)))) ∨
    (∃ n, n ≤ 4 ∧ headerStep s = .next (raiseDecode .invalidMagic (consume n s))) ∨
    (∃ n, n ≤ 14 ∧ s.cfg.lenientRead = false ∧
      headerStep s = .next (raiseDecode .streamExhausted (consume n s))) ∨
    headerStep s = .fault .awaitingByte := by
  rcases readMagicBytes_cases 4 s with ⟨m, hml, hm, hr⟩ | ⟨k, hk, _, he, hr⟩ | ⟨k, hk, _, hu, hr⟩
  · by_cases hmag : ofBigEndian m = magic
    · rcases readBytes_cases 10 (consume 4 s) with ⟨fs, hl, hs, hf⟩ | ⟨k, hk, _, ⟨he, hl⟩, hf⟩ | ⟨k, hk, _, hu, hf⟩
      · exact .inl ⟨m, fs, hml, hm, hmag, hl, hs, by
          simp [headerStep, readMagic, readFields, hr, hmag, hf, Port.andThen]⟩
      · refine .inr (.inr (.inl ⟨4 + (k + 1), by omega, by simpa using hl, ?_⟩))
        simp [headerStep, readMagic, readFields, hr, hmag, hf, Port.andThen]
      · exact .inr (.inr (.inr (by simp [headerStep, readMagic, readFields, hr, hmag, hf, Port.andThen])))
    · exact .inr (.inl ⟨4, by omega, by simp [headerStep, readMagic, hr, hmag, Port.andThen]⟩)
  · exact .inr (.inl ⟨k + 1, by omega, by simp [headerStep, readMagic, hr, Port.andThen]⟩)
  · exact .inr (.inr (.inr (by simp [headerStep, readMagic, hr, Port.andThen])))

/-! ## The permuter -/

/-- A copy step that answers a next state copied the pixel of its slot (R164). -/
theorem copyStep_next {s t : State} (h : copyStep s = .next t) :
    ∃ p, readSlot s.img s.cpos = some p ∧ t = copyPixel p s := by
  unfold copyStep at h
  split at h
  · cases h
    exact ⟨_, by assumption, rfl⟩
  · cases h

/-- An allocation step that answers a next state took a grant or a refusal (R161, R162). -/
theorem allocStep_next {s t : State} (h : allocStep s = .next t) :
    (∃ base, s.alloc = some (.granted base) ∧ t = grantSurface base s) ∨
    (s.alloc = some .refused ∧ t = raiseConvert { s with alloc := none }) := by
  unfold allocStep at h
  split at h <;> cases h
  · exact .inl ⟨_, by assumption, rfl⟩
  · exact .inr ⟨by assumption, rfl⟩

/-! ## One step -/

/-- Which of the core's steps a next state came from (R220). -/
theorem coreStep_next {s t : State} (h : coreStep s = .next t) :
    (s.dphase = .hdr ∧ headerStep s = .next t) ∨
    (s.dphase = .pix ∧ s.run = 0 ∧ opcodeIteration s = .next t) ∨
    (s.dphase = .pix ∧ s.run ≠ 0 ∧ t = repeatPixel s) ∨
    (s.dphase ≠ .hdr ∧ s.dphase ≠ .pix ∧ s.cphase = .alloc ∧ allocStep s = .next t) ∨
    (s.dphase ≠ .hdr ∧ s.dphase ≠ .pix ∧ s.cphase = .copy ∧ s.cpos < s.npix ∧ copyStep s = .next t) := by
  unfold coreStep at h
  split at h
  · exact .inl ⟨by assumption, h⟩
  · unfold iteration at h
    split at h
    · exact .inr (.inl ⟨by assumption, by assumption, h⟩)
    · cases h
      exact .inr (.inr (.inl ⟨by assumption, by assumption, rfl⟩))
  · exact .inr (.inr (.inr (.inl ⟨by assumption, by assumption, by assumption, h⟩)))
  · split at h
    · exact .inr (.inr (.inr (.inr ⟨by assumption, by assumption, by assumption, by assumption, h⟩)))
    · cases h
  · cases h

/-- Which move a next state came from: a core step, the core's holding, a command, or the host's preparing answers
(R20, R40, R41, R43). -/
theorem step_next {s t : State} (h : step s = .next t) :
    (s.host = [] ∧ coreStep s = .next t) ∨
    ∃ m rest, s.host = m :: rest ∧
      ((m = .pass ∧ (coreStep { s with host := rest } = .next t ∨ t = { s with host := rest })) ∨
       (m = .command .reset ∧ t = resetCommand { s with host := rest }) ∨
       (m = .command .startDecode ∧ startDecodeEnabled s = true ∧ t = startDecode { s with host := rest }) ∨
       (m = .command .startConvert ∧ startConvertEnabled s = true ∧ t = startConvert { s with host := rest }) ∨
       (∃ src, m = .supply src ∧ t = { s with host := rest, src := src }) ∨
       (∃ a, m = .answerAlloc a ∧ t = { s with host := rest, alloc := some a })) := by
  unfold step nextMove at h
  split at h
  · exact .inl ⟨by assumption, h⟩
  · rename_i m rest hh
    refine .inr ⟨m, rest, hh, ?_⟩
    cases m with
    | pass =>
      refine .inl ⟨rfl, ?_⟩
      simp only [hostMove, coreTurn] at h
      split at h
      · split at h
        · cases h
          exact .inr rfl
        · cases h
      · exact .inl h
    | command c =>
      cases c with
      | reset =>
        cases h
        exact .inr (.inl ⟨rfl, rfl⟩)
      | startDecode =>
        simp only [hostMove, issue] at h
        split at h
        · cases h
          exact .inr (.inr (.inl ⟨rfl, by assumption, rfl⟩))
        · cases h
      | startConvert =>
        simp only [hostMove, issue] at h
        split at h
        · cases h
          exact .inr (.inr (.inr (.inl ⟨rfl, by assumption, rfl⟩)))
        · cases h
    | supply src =>
      cases h
      exact .inr (.inr (.inr (.inr (.inl ⟨src, rfl, rfl⟩))))
    | answerAlloc a =>
      cases h
      exact .inr (.inr (.inr (.inr (.inr ⟨a, rfl, rfl⟩))))

end Sys2Proof.Machine
end

