-- ==== Sys2Proof/Laws/PerInstr.lean ====
section
/-! SUPPORT. One lemma per instruction about its encoding: the family `EncodedLength`. -/

namespace Sys2Proof.Laws.EncodedLength

/-- The encoding of a well-formed instruction starts with a byte that selects its opcode (R71, R80), and is as long as
that byte's length says (R72). -/
def Statement (i : Instr) : Prop :=
  wellFormed i = true → ∃ b1 extra, encode i = b1 :: extra ∧ select b1 = i.opcode ∧ (encode i).length = opcodeLength b1

theorem rgb (r g b : Byte) : Statement (.rgb r g b) := fun _ => ⟨_, _, rfl, rfl, rfl⟩

theorem rgba (r g b a : Byte) : Statement (.rgba r g b a) := fun _ => ⟨_, _, rfl, rfl, rfl⟩

theorem index (i : BitVec 6) : Statement (.index i) := fun _ => ⟨_, _, rfl, by
  revert i
  decide⟩

theorem diff (dr dg db : Int) : Statement (.diff dr dg db) := fun h => ⟨_, _, rfl, by
  simp only [wellFormed, inRange, Bool.and_eq_true, decide_eq_true_eq] at h
  obtain ⟨⟨⟨_, _⟩, _, _⟩, _, _⟩ := h
  interval_cases dr <;> interval_cases dg <;> interval_cases db <;> decide⟩

theorem luma (vg drg dbg : Int) : Statement (.luma vg drg dbg) := fun h => ⟨_, _, rfl, by
  simp only [wellFormed, inRange, Bool.and_eq_true, decide_eq_true_eq] at h
  obtain ⟨⟨⟨_, _⟩, _⟩, _⟩ := h
  interval_cases vg <;> exact ⟨rfl, rfl⟩⟩

theorem run (n : BitVec 6) : Statement (.run n) := fun h => ⟨_, _, rfl, by
  revert n
  decide⟩

end Sys2Proof.Laws.EncodedLength
end

