-- ==== Sys2Proof/Tests/Slice0.lean ====
section
/-! SUPPORT. Tests with expected results from the spec (95_test_vectors), and for every obligation with hypotheses a
named witness that meets them. -/

namespace Sys2Proof.Tests

open Sys2Proof.Machine

/-! ## WellFormed: each check refuses an ill-formed term -/

theorem test_wf_diff_low : [wellFormed (.diff (-3) 0 0), wellFormed (.diff 0 (-3) 0), wellFormed (.diff 0 0 (-3))] =
    [false, false, false] := by decide

/-- No DIFF can add 2 (90_conflicts C1). -/
theorem test_wf_diff_high : [wellFormed (.diff 2 0 0), wellFormed (.diff 0 2 0), wellFormed (.diff 0 0 2)] =
    [false, false, false] := by decide

theorem test_wf_luma_low : [wellFormed (.luma (-33) 0 0), wellFormed (.luma 0 (-9) 0), wellFormed (.luma 0 0 (-9))] =
    [false, false, false] := by decide

theorem test_wf_luma_high : [wellFormed (.luma 32 0 0), wellFormed (.luma 0 8 0), wellFormed (.luma 0 0 8)] =
    [false, false, false] := by decide

/-- RUN 62 and RUN 63 would be the bytes of RGB and RGBA (R79). -/
theorem test_wf_run : [wellFormed (.run 61), wellFormed (.run 62), wellFormed (.run 63)] = [true, false, false] := by
  decide

/-- The assembler refuses; it does not encode modulo (R83). -/
theorem test_assemble_refuses : assemble (.diff 2 0 0) = none := by decide

/-! ## Decoding: words written out from the patterns of R71 -/

/-- `11111110 r g b`, V-RGB-1. -/
theorem test_decode_rgb : decode [0b11111110, 0x11, 0x22, 0x33] = .ok (.rgb 17 34 51, []) := by decide

/-- `11111111 r g b a`, P1; the byte after it is left. -/
theorem test_decode_rgba : decode [0b11111111, 0x0A, 0x14, 0x1E, 0x28, 0x72] = .ok (.rgba 10 20 30 40, [0x72]) := by
  decide

/-- `00iiiiii`, V-INDEX-3. -/
theorem test_decode_index : decode [0b00110101] = .ok (.index 53, []) := by decide

/-- `01rrggbb`, V-DIFF-2: deltas +1, −2, −2. -/
theorem test_decode_diff : decode [0b01110000] = .ok (.diff 1 (-2) (-2), []) := by decide

/-- `10gggggg rrrrbbbb`, V-LUMA-1: `vg` = +10, then 15 − 8 and 0 − 8. -/
theorem test_decode_luma : decode [0b10101010, 0b11110000] = .ok (.luma 10 7 (-8), []) := by decide

/-- `11nnnnnn`, V-RUN-3. -/
theorem test_decode_run : decode [0b11111101] = .ok (.run 61, []) := by decide

/-- The table numbers a later byte's bits above an earlier one's. -/
theorem test_decode_table_word : decodeTableWord 32 0x332211FE = some (.rgb 0x11 0x22 0x33) := by decide

/-- The header directive of 95_test_vectors: H(1,1,4,0). -/
theorem test_header_bytes : headerBytes 1 1 4 0 =
    [0x71, 0x6F, 0x69, 0x66, 0x00, 0x00, 0x00, 0x01, 0x00, 0x00, 0x00, 0x01, 0x04, 0x00] := by decide

/-! ## The hash table of 95_test_vectors -/

theorem test_hash : [pixelHash ⟨0, 0, 0, 255⟩, pixelHash ⟨255, 255, 255, 255⟩, pixelHash ⟨10, 20, 30, 40⟩,
    pixelHash ⟨16, 32, 48, 255⟩, pixelHash ⟨224, 224, 224, 0⟩] = [53, 38, 12, 21, 32] := by decide

/-! ## One step -/

/-- The state a step answers, if it answers one. -/
def after (o : Host.Outcome State Fault Refusal) : Option State :=
  match o with
  | .next t => some t
  | _ => none

/-- A closed source: the header's 14 bytes (their values no longer matter), then `bs`, then nothing. -/
def bodySource (bs : List Byte) : Source where
  answers := List.replicate 14 (.byte 0) ++ bs.map .byte
  closed := true

/-- The pixel loop of a 1 by 2 image, at its first iteration, with the current pixel `p` and the body `bs`. -/
def loopState (p : Pixel) (bs : List Byte) : State :=
  { State.reset with
    src := bodySource bs
    rdcnt := 14
    requests := 14
    px := p
    npix := 2
    hdrW := 1
    hdrH := 2
    hdrCh := 4
    dphase := .pix }

/-- The same with a source that answers no more than `bs`. -/
def openState (bs : List Byte) : State :=
  { loopState Pixel.initial bs with src := { bodySource bs with closed := false } }

/-- The same under LENIENT_READ = true. -/
def lenientState (bs : List Byte) : State :=
  { loopState Pixel.initial bs with cfg := { Config.normative with lenientRead := true } }

/-- What the vectors give of an iteration: PX, RUN, the requests, the slot written and one cache entry. -/
def seen (i : BitVec 6) (s : State) : Option (Pixel × BitVec 6 × Nat × Option Pixel × Pixel) :=
  (after (step s)).map fun t => (t.px, t.run, t.requests, readSlot t.img s.pos, idxRead t.idx i)

/-- V-RGB-1. -/
theorem test_rgb : seen 55 (loopState Pixel.initial [0xFE, 0x11, 0x22, 0x33]) =
    some (⟨17, 34, 51, 255⟩, 0, 18, some ⟨17, 34, 51, 255⟩, ⟨17, 34, 51, 255⟩) := by decide

/-- V-RGB-2: alpha is kept. -/
theorem test_rgb_keeps_alpha : seen 26 (loopState ⟨10, 20, 30, 40⟩ [0xFE, 1, 2, 3]) =
    some (⟨1, 2, 3, 40⟩, 0, 18, some ⟨1, 2, 3, 40⟩, ⟨1, 2, 3, 40⟩) := by decide

/-- W1. -/
theorem test_rgba : seen 21 (loopState Pixel.initial [0xFF, 0x10, 0x20, 0x30, 0xFF]) =
    some (⟨16, 32, 48, 255⟩, 0, 19, some ⟨16, 32, 48, 255⟩, ⟨16, 32, 48, 255⟩) := by decide

/-- V-INDEX-3: the entry of the initial pixel is empty at decode start. -/
theorem test_index_empty : seen 53 (loopState Pixel.initial [0x35]) =
    some (⟨0, 0, 0, 0⟩, 0, 15, some ⟨0, 0, 0, 0⟩, ⟨0, 0, 0, 0⟩) := by decide

/-- P5, second iteration: an empty entry clobbers slot 0. -/
theorem test_index_clobbers :
    seen 0 { loopState ⟨0, 0, 0, 64⟩ [0x05] with
      idx := idxWrite (Vector.replicate 64 Pixel.zero) 0 ⟨0, 0, 0, 64⟩ } =
    some (⟨0, 0, 0, 0⟩, 0, 15, some ⟨0, 0, 0, 0⟩, ⟨0, 0, 0, 0⟩) := by decide

/-- V-DIFF-2: all three lanes wrap. -/
theorem test_diff_wraps : seen 36 (loopState ⟨255, 0, 1, 255⟩ [0x70]) =
    some (⟨0, 254, 255, 255⟩, 0, 15, some ⟨0, 254, 255, 255⟩, ⟨0, 254, 255, 255⟩) := by decide

/-- V-DIFF-1: deltas +1, −2, 0. -/
theorem test_diff : seen 5 (loopState ⟨10, 20, 30, 40⟩ [0x72]) =
    some (⟨11, 18, 30, 40⟩, 0, 15, some ⟨11, 18, 30, 40⟩, ⟨11, 18, 30, 40⟩) := by decide

/-- V-LUMA-1: 250 + 17 wraps to 11. -/
theorem test_luma : seen 43 (loopState ⟨250, 10, 5, 255⟩ [0xAA, 0xF0]) =
    some (⟨11, 20, 7, 255⟩, 0, 16, some ⟨11, 20, 7, 255⟩, ⟨11, 20, 7, 255⟩) := by decide

/-- V-LUMA-2: deltas −40, −32, −40. -/
theorem test_luma_low : seen 5 (loopState Pixel.initial [0x80, 0x00]) =
    some (⟨216, 224, 216, 255⟩, 0, 16, some ⟨216, 224, 216, 255⟩, ⟨216, 224, 216, 255⟩) := by decide

/-- V-RUN-3, first iteration: no index update. -/
theorem test_run : seen 53 (loopState Pixel.initial [0xFD]) =
    some (⟨0, 0, 0, 255⟩, 61, 15, some ⟨0, 0, 0, 255⟩, ⟨0, 0, 0, 0⟩) := by decide

/-- V-RUN-3, second iteration: a repeat reads nothing, and RUN is 60 at the end. -/
theorem test_repeat : seen 53 { loopState Pixel.initial [] with run := 61 } =
    some (⟨0, 0, 0, 255⟩, 60, 14, some ⟨0, 0, 0, 255⟩, ⟨0, 0, 0, 0⟩) := by decide

/-- P4: one of RGBA's four bytes, StreamExhausted (code 3) after two requests of the body. -/
theorem test_truncated : (after (step (loopState Pixel.initial [0xFF, 0x01]))).map
    (fun t => (t.derr.code, t.dphase, t.imgValid, t.requests)) = some (3, .err, false, 17) := by decide

/-- V-LEN-1: the same bytes in the lenient mode give RGBA (1,0,0,0). -/
theorem test_lenient : seen 3 (lenientState [0xFF, 0x01]) =
    some (⟨1, 0, 0, 0⟩, 0, 19, some ⟨1, 0, 0, 0⟩, ⟨1, 0, 0, 0⟩) := by decide

/-- The header step is next, with a closed source of the bytes `bs`. -/
def headerState (bs : List Byte) : State :=
  { State.reset with src := { answers := bs.map .byte, closed := true }, px := Pixel.initial, dphase := .hdr }

/-- The result of a header step: DERR, DPHASE and the requests. -/
def headerSeen (bs : List Byte) : Option (BitVec 3 × DPhase × Nat) :=
  (after (step (headerState bs))).map fun t => (t.derr.code, t.dphase, t.requests)

/-- V-HDR-11. -/
theorem test_header_accepted : headerSeen (headerBytes 1 1 4 0) = some (0, .pix, 14) := by decide

/-- V-HDR-2 and V-HDR-3: a short and a wrong magic. -/
theorem test_magic : [headerSeen [0x71, 0x6F], headerSeen [0x71, 0x6F, 0x69, 0x46, 0x00]] =
    [some (1, .err, 3), some (1, .err, 4)] := by decide

/-- V-HDR-6: a missing byte goes before a zero width. -/
theorem test_header_short : headerSeen ((headerBytes 0 1 4 0).take 13) = some (3, .err, 14) := by decide

/-- V-HDR-9 and the guard table: height 133,333,333 is refused for width 3, and 133,333,332 is accepted. -/
theorem test_guard : [headerSeen (headerBytes 3 133333333 4 0), headerSeen (headerBytes 3 133333332 4 0)] =
    [some (2, .err, 14), some (0, .pix, 14)] := by decide

/-! ## Conversion -/

/-- A decoded 1 by 2 image of the pixels (10,20,30,40) and (16,32,48,255), four channels. -/
def decodedState : State :=
  { loopState ⟨16, 32, 48, 255⟩ [] with
    dphase := .ok
    imgValid := true
    pos := 2
    rdcnt := 24
    requests := 24
    img := writeSlot (writeSlot [] 0 ⟨10, 20, 30, 40⟩) 1 ⟨16, 32, 48, 255⟩ }

/-- Its conversion, with a surface granted at address 100. -/
def allocState : State := { decodedState with cphase := .alloc, alloc := some (.granted 100) }

/-- Its conversion after the first copy step. -/
def copyState : State :=
  { decodedState with
    cphase := .copy
    bmpBase := 100
    cpos := 1
    bmp := writeSurfacePixel [] 100 0 ⟨10, 20, 30, 40⟩ }

/-- W4: the image pixel (10,20,30,40) gives the surface bytes 1E 14 0A 28. -/
theorem test_copy : (after (step { copyState with cpos := 0, bmp := [] })).map (fun t => t.bmp) =
    some [(100, 0x1E), (101, 0x14), (102, 0x0A), (103, 0x28)] := by decide

/-- W1: the last copy step, ALPHA_MODE 1, surface 30 20 10 FF. -/
theorem test_copy_last : (after (step copyState)).map
    (fun t => (t.cphase, t.bmpValid, t.alphaMode.code, t.bmp.drop 4)) =
    some (.ok, true, 1, [(104, 0x30), (105, 0x20), (106, 0x10), (107, 0xFF)]) := by decide

/-- The status view's codes (R39) after W1's last copy step: CPHASE OK is 3, ALPHA_MODE ARGB is 1. -/
theorem test_view : (after (step copyState)).map (fun t => (hostRead .cphase t == .ok (.bits3 3),
    hostRead .alphaMode t == .ok (.alpha 1), hostRead (.surfaceByte 7) t == .ok (.byte 0xFF))) =
    some (true, true, true) := by decide

/-- V-CONV-3: a refusal is AllocationFailed (code 4). -/
theorem test_alloc_refused : (after (step { allocState with alloc := some .refused })).map
    (fun t => (t.cerr.code, t.cphase, t.bmpValid, t.imgValid, t.dphase)) =
    some (4, .err, false, true, .ok) := by decide

/-! ## The first instruction after reset -/

theorem test_first_step_rgba : (after (step (State.reset.withFetchWord 40 0x28_1E_14_0A_FF))).map
    (fun t => (t.px, t.rdcnt, readSlot t.img 0)) = some (⟨10, 20, 30, 40⟩, 5, some ⟨10, 20, 30, 40⟩) := by decide

theorem test_first_step_run : (after (step (State.reset.withFetchWord 8 0xFD))).map
    (fun t => (t.run, t.rdcnt, t.pos)) = some (61, 1, 1) := by decide

/-! ## Witnesses: for every obligation with hypotheses, a state and operands that meet them -/

theorem witness_DecodeOfEncode : wellFormed (.diff (-2) 1 (-2)) = true ∧ wellFormed (.luma (-32) 7 (-8)) = true ∧
    wellFormed (.luma 31 (-8) 7) = true ∧ wellFormed (.run 61) = true := by decide

theorem witness_EncodeOfDecode : decode [0xFE, 1, 2, 3, 9] = .ok (.rgb 1 2 3, [9]) := by decide

theorem witness_DecodeFailsOnlyForWantOfBytes : opcodeLength 0xFF ≤ [1, 2, 3, 4].length + 1 ∧
    [1, 2, 3].length + 1 < opcodeLength 0xFF ∧ opcodeLength 0x80 ≤ [0].length + 1 ∧
    ([] : List Byte).length + 1 < opcodeLength 0x80 := by decide

/-- Each row of the map at both ends of its range. -/
theorem witness_FirstByteMap : [0x00, 0x3F, 0x40, 0x7F, 0x80, 0xBF, 0xC0, 0xFD, 0xFE, 0xFF].map select =
    [.index, .index, .diff, .diff, .luma, .luma, .run, .run, .rgb, .rgba] := by decide

theorem suppliesAll_luma : SuppliesAll (loopState Pixel.initial [0xAA, 0xF0]) [0xAA, 0xF0] :=
  suppliesAll_cons.2 ⟨by decide, suppliesAll_cons.2 ⟨by decide, suppliesAll_nil _⟩⟩

theorem witness_StepRunsDecodedInstruction : ∃ s b1 extra i, OpcodeTurn s ∧ SuppliesAll s (b1 :: extra) ∧
    extra.length = opcodeLength b1 - 1 ∧ decode (b1 :: extra) = .ok (i, []) :=
  ⟨loopState Pixel.initial [0xAA, 0xF0], 0xAA, [0xF0], .luma 10 7 (-8), by decide, suppliesAll_luma, by decide,
    by decide⟩

/-! The opcodes: the fetch clause, in both read modes, and the first and the last byte that can be missing. -/

theorem witness_RgbOpcode_fetch : ∃ s r g b, OpcodeTurn s ∧ Supplies s 0 0xFE ∧ Supplies s 1 r ∧ Supplies s 2 g ∧
    Supplies s 3 b := ⟨loopState Pixel.initial [0xFE, 1, 2, 3], 1, 2, 3, by decide⟩

theorem witness_RgbOpcode_fetch_lenient : ∃ s r g b, s.cfg.lenientRead = true ∧ OpcodeTurn s ∧ Supplies s 0 0xFE ∧
    Supplies s 1 r ∧ Supplies s 2 g ∧ Supplies s 3 b := ⟨lenientState [0xFE], 0, 0, 0, by decide⟩

theorem witness_RgbOpcode_missing_first : ∃ s k, OpcodeTurn s ∧ s.cfg.lenientRead = false ∧ Supplies s 0 0xFE ∧
    k < 3 ∧ (∀ j, j < k → ∃ v, Supplies s (j + 1) v) ∧ Ends s (k + 1) :=
  ⟨loopState Pixel.initial [0xFE], 0, by decide, by decide, by decide, by decide, fun j h => by omega, by decide⟩

theorem witness_RgbOpcode_missing_last : ∃ s k, OpcodeTurn s ∧ s.cfg.lenientRead = false ∧ Supplies s 0 0xFE ∧
    k < 3 ∧ (∀ j, j < k → ∃ v, Supplies s (j + 1) v) ∧ Ends s (k + 1) :=
  ⟨loopState Pixel.initial [0xFE, 7, 7], 2, by decide, by decide, by decide, by decide,
    fun j h => ⟨7, by interval_cases j <;> decide⟩, by decide⟩

theorem witness_RgbaOpcode_fetch : ∃ s r g b a, OpcodeTurn s ∧ Supplies s 0 0xFF ∧ Supplies s 1 r ∧ Supplies s 2 g ∧
    Supplies s 3 b ∧ Supplies s 4 a := ⟨loopState Pixel.initial [0xFF, 1, 2, 3, 4], 1, 2, 3, 4, by decide⟩

theorem witness_RgbaOpcode_missing_first : ∃ s k, OpcodeTurn s ∧ s.cfg.lenientRead = false ∧ Supplies s 0 0xFF ∧
    k < 4 ∧ (∀ j, j < k → ∃ v, Supplies s (j + 1) v) ∧ Ends s (k + 1) :=
  ⟨loopState Pixel.initial [0xFF], 0, by decide, by decide, by decide, by decide, fun j h => by omega, by decide⟩

theorem witness_RgbaOpcode_missing_last : ∃ s k, OpcodeTurn s ∧ s.cfg.lenientRead = false ∧ Supplies s 0 0xFF ∧
    k < 4 ∧ (∀ j, j < k → ∃ v, Supplies s (j + 1) v) ∧ Ends s (k + 1) :=
  ⟨loopState Pixel.initial [0xFF, 7, 7, 7], 3, by decide, by decide, by decide, by decide,
    fun j h => ⟨7, by interval_cases j <;> decide⟩, by decide⟩

theorem witness_IndexOpcode : ∃ s, ∃ i : BitVec 6, OpcodeTurn s ∧ Supplies s 0 (BitVec.ofNat 8 i.toNat) :=
  ⟨loopState Pixel.initial [0x3F], 63, by decide⟩

theorem witness_DiffOpcode : ∃ s, ∃ r g b : Nat, r < 4 ∧ g < 4 ∧ b < 4 ∧ OpcodeTurn s ∧
    Supplies s 0 (BitVec.ofNat 8 (0x40 + 16 * r + 4 * g + b)) :=
  ⟨loopState Pixel.initial [0x73], 3, 0, 3, by decide⟩

theorem witness_LumaOpcode_fetch : ∃ s, ∃ g r b : Nat, g < 64 ∧ r < 16 ∧ b < 16 ∧ OpcodeTurn s ∧
    Supplies s 0 (BitVec.ofNat 8 (0x80 + g)) ∧ Supplies s 1 (BitVec.ofNat 8 (16 * r + b)) :=
  ⟨loopState Pixel.initial [0xBF, 0xF0], 63, 15, 0, by decide⟩

theorem witness_LumaOpcode_missing : ∃ s, ∃ g : Nat, g < 64 ∧ OpcodeTurn s ∧ s.cfg.lenientRead = false ∧
    Supplies s 0 (BitVec.ofNat 8 (0x80 + g)) ∧ Ends s 1 := ⟨loopState Pixel.initial [0x80], 0, by decide⟩

theorem witness_RunOpcode : ∃ s, ∃ n : Nat, n ≤ 61 ∧ OpcodeTurn s ∧ Supplies s 0 (BitVec.ofNat 8 (0xC0 + n)) :=
  ⟨loopState Pixel.initial [0xFD], 61, by decide⟩

theorem witness_RepeatIteration : ∃ s : State, s.host = [] ∧ s.dphase = .pix ∧ s.run ≠ 0 :=
  ⟨{ loopState Pixel.initial [] with run := 1 }, by decide⟩

/-- The five-byte opcode. -/
theorem witness_IterationEmitsOnePixel : ∃ s t : State, s.host = [] ∧ s.dphase = .pix ∧ step s = .next t ∧
    t.dphase ≠ .err := ⟨loopState Pixel.initial [0xFF, 1, 2, 3, 4], _, rfl, rfl, rfl, by decide⟩

/-- A loop state meets the main invariant. -/
theorem loopState_inv (p : Pixel) (bs : List Byte) : CoreInv (loopState p bs) where
  imgForm := List.Pairwise.nil
  bmpForm := List.Pairwise.nil
  imgValid_iff := by simp [loopState, State.reset]
  derr_iff := by simp [loopState, State.reset]
  bmpValid_iff := by simp [loopState, State.reset]
  cerr_iff := by simp [loopState, State.reset]
  exclusive := by simp [loopState, State.reset]
  unread := by simp [loopState]
  header := fun _ => ⟨(by decide : headerOk 400000000 1 2 4 0 = true), rfl⟩
  looping := fun _ => Nat.zero_lt_two
  ended := by simp [loopState]
  written := fun _ k h => absurd h (Nat.not_lt_zero k)
  runRange := fun _ => Nat.zero_le 61
  reads := fun _ => ⟨rfl, le_refl 14, le_refl 14⟩
  uncopied := by simp [loopState, State.reset]
  copying := by simp [loopState, State.reset]

/-- A run cut short: 62 pixels are asked for, the image has room for two. -/
theorem witness_RunEmitsRepeats_cut : ∃ s, ∃ n m : Nat, CoreInv s ∧ OpcodeTurn s ∧ n ≤ 61 ∧
    Supplies s 0 (BitVec.ofNat 8 (0xC0 + n)) ∧ m = min (n + 1) (s.npix - s.pos) :=
  ⟨loopState Pixel.initial [0xFD], 61, 2, loopState_inv _ _, by decide⟩

/-- A run that leaves room. -/
theorem witness_RunEmitsRepeats_room : ∃ s, ∃ n m : Nat, CoreInv s ∧ OpcodeTurn s ∧ n ≤ 61 ∧
    Supplies s 0 (BitVec.ofNat 8 (0xC0 + n)) ∧ m = min (n + 1) (s.npix - s.pos) :=
  ⟨loopState Pixel.initial [0xC0], 0, 1, loopState_inv _ _, by decide⟩

theorem witness_HashOfPixel : pixelHash ⟨0, 0, 0, 255⟩ = 53 ∧ 6 ≤ 13 := by decide

/-! The header. -/

theorem witness_MagicIsChecked_short : ∃ s k, HeaderTurn s ∧ k < 4 ∧ (∀ j, j < k → ∃ v, Answers s j v) ∧ Ends s k :=
  ⟨headerState [7, 7, 7], 3, by decide, by decide, fun j h => ⟨7, by interval_cases j <;> decide⟩, by decide⟩

theorem witness_MagicIsChecked_empty : ∃ s k, HeaderTurn s ∧ k < 4 ∧ (∀ j, j < k → ∃ v, Answers s j v) ∧ Ends s k :=
  ⟨headerState [], 0, by decide, by decide, fun j h => by omega, by decide⟩

theorem witness_MagicIsChecked_wrong : ∃ s b0 b1 b2 b3, HeaderTurn s ∧ Answers s 0 b0 ∧ Answers s 1 b1 ∧
    Answers s 2 b2 ∧ Answers s 3 b3 ∧ ¬ (b0 = 0x71 ∧ b1 = 0x6F ∧ b2 = 0x69 ∧ b3 = 0x66) :=
  ⟨headerState [0x71, 0x6F, 0x69, 0x46], 0x71, 0x6F, 0x69, 0x46, by decide⟩

/-- V-HDR-10, the largest width: refused. -/
theorem witness_HeaderIsCheckedAndLoaded_refused :
    ∃ (s : State) (w3 w2 w1 w0 h3 h2 h1 h0 ch cs : Byte) (w h : Nat), HeaderTurn s ∧
      Answers s 0 0x71 ∧ Answers s 1 0x6F ∧ Answers s 2 0x69 ∧ Answers s 3 0x66 ∧
      Supplies s 4 w3 ∧ Supplies s 5 w2 ∧ Supplies s 6 w1 ∧ Supplies s 7 w0 ∧ Supplies s 8 h3 ∧ Supplies s 9 h2 ∧
      Supplies s 10 h1 ∧ Supplies s 11 h0 ∧ Supplies s 12 ch ∧ Supplies s 13 cs ∧
      w = w3.toNat * 2 ^ 24 + w2.toNat * 2 ^ 16 + w1.toNat * 2 ^ 8 + w0.toNat ∧
      h = h3.toNat * 2 ^ 24 + h2.toNat * 2 ^ 16 + h1.toNat * 2 ^ 8 + h0.toNat ∧
      (w = 0 ∨ h = 0 ∨ ¬ (ch = 3 ∨ ch = 4) ∨ ¬ (cs = 0 ∨ cs = 1) ∨ s.cfg.pixelsMax / w ≤ h) :=
  ⟨headerState (headerBytes 0xFFFFFFFF 1 4 0), 0xFF, 0xFF, 0xFF, 0xFF, 0, 0, 0, 1, 4, 0, 4294967295, 1, by
    and_intros <;> decide⟩

/-- The guard table's last accepted height for width 3. -/
theorem witness_HeaderIsCheckedAndLoaded_accepted :
    ∃ (s : State) (w3 w2 w1 w0 h3 h2 h1 h0 ch cs : Byte) (w h : Nat), HeaderTurn s ∧
      Answers s 0 0x71 ∧ Answers s 1 0x6F ∧ Answers s 2 0x69 ∧ Answers s 3 0x66 ∧
      Supplies s 4 w3 ∧ Supplies s 5 w2 ∧ Supplies s 6 w1 ∧ Supplies s 7 w0 ∧ Supplies s 8 h3 ∧ Supplies s 9 h2 ∧
      Supplies s 10 h1 ∧ Supplies s 11 h0 ∧ Supplies s 12 ch ∧ Supplies s 13 cs ∧
      w = w3.toNat * 2 ^ 24 + w2.toNat * 2 ^ 16 + w1.toNat * 2 ^ 8 + w0.toNat ∧
      h = h3.toNat * 2 ^ 24 + h2.toNat * 2 ^ 16 + h1.toNat * 2 ^ 8 + h0.toNat ∧
      ¬ (w = 0 ∨ h = 0 ∨ ¬ (ch = 3 ∨ ch = 4) ∨ ¬ (cs = 0 ∨ cs = 1) ∨ s.cfg.pixelsMax / w ≤ h) :=
  ⟨headerState (headerBytes 3 133333332 4 0), 0, 0, 0, 3, 0x07, 0xF2, 0x81, 0x54, 4, 0, 3, 133333332, by
    and_intros <;> decide⟩

theorem witness_GuardAdmits : headerOk 400000000 3 133333332 4 0 = true := by decide

/-- V-HDR-5 and V-HDR-6: the first and the last header byte that can be missing. -/
theorem witness_MissingByte_header_first : ∃ s k, HeaderTurn s ∧ s.cfg.lenientRead = false ∧ Answers s 0 0x71 ∧
    Answers s 1 0x6F ∧ Answers s 2 0x69 ∧ Answers s 3 0x66 ∧ k < 10 ∧
    (∀ j, j < k → ∃ v, Supplies s (4 + j) v) ∧ Ends s (4 + k) :=
  ⟨headerState [0x71, 0x6F, 0x69, 0x66], 0, by decide, by decide, by decide, by decide, by decide, by decide,
    by decide, fun j h => by omega, by decide⟩

theorem witness_MissingByte_header_last : ∃ s k, HeaderTurn s ∧ s.cfg.lenientRead = false ∧ Answers s 0 0x71 ∧
    Answers s 1 0x6F ∧ Answers s 2 0x69 ∧ Answers s 3 0x66 ∧ k < 10 ∧
    (∀ j, j < k → ∃ v, Supplies s (4 + j) v) ∧ Ends s (4 + k) :=
  ⟨headerState [0x71, 0x6F, 0x69, 0x66, 7, 7, 7, 7, 7, 7, 7, 7, 7], 9, by decide, by decide, by decide, by decide,
    by decide, by decide, by decide, fun j h => ⟨7, by interval_cases j <;> decide⟩, by decide⟩

theorem witness_MissingByte_opcode : ∃ s, OpcodeTurn s ∧ s.cfg.lenientRead = false ∧ Ends s 0 :=
  ⟨loopState Pixel.initial [], by decide⟩

theorem witness_MissingByte_extra : ∃ s b1 k, OpcodeTurn s ∧ s.cfg.lenientRead = false ∧ Supplies s 0 b1 ∧
    k < opcodeLength b1 - 1 ∧ (∀ j, j < k → ∃ v, Supplies s (j + 1) v) ∧ Ends s (k + 1) :=
  ⟨loopState Pixel.initial [0xFF, 7, 7, 7], 0xFF, 3, by decide, by decide, by decide, by decide,
    fun j h => ⟨7, by interval_cases j <;> decide⟩, by decide⟩

theorem witness_LenientLoop_index : ∃ s, OpcodeTurn s ∧ s.cfg.lenientRead = true ∧ Ends s 0 :=
  ⟨lenientState [], by decide⟩

theorem witness_LenientLoop_step : ∃ s t : State, s.host = [] ∧ s.dphase = .pix ∧ s.cfg.lenientRead = true ∧
    step s = .next t := ⟨lenientState [0xFF, 1], _, rfl, rfl, rfl, rfl⟩

theorem lenientState_inv (bs : List Byte) : CoreInv (lenientState bs) :=
  { loopState_inv Pixel.initial bs with }

theorem witness_LenientLoop_ends : ∃ s, CoreInv s ∧ s.host = [] ∧ s.dphase = .pix ∧ s.cfg.lenientRead = true ∧
    s.src.closed = true := ⟨lenientState [0xFF, 1], lenientState_inv _, by decide⟩

/-! Errors and the end of a decode. -/

/-- V-HDR-1. -/
theorem witness_DecodeErrorEntry_header : ∃ s t : State, s.host = [] ∧ (s.dphase = .hdr ∨ s.dphase = .pix) ∧
    step s = .next t ∧ t.dphase = .err := ⟨headerState [], _, rfl, .inl rfl, rfl, rfl⟩

/-- P4. -/
theorem witness_DecodeErrorEntry_loop : ∃ s t : State, s.host = [] ∧ (s.dphase = .hdr ∨ s.dphase = .pix) ∧
    step s = .next t ∧ t.dphase = .err := ⟨loopState Pixel.initial [0xFF, 1], _, rfl, .inr rfl, rfl, rfl⟩

/-- A failed decode, with the host's moves `ms` to come. -/
def errorState (ms : List HostMove) : State :=
  { State.reset with host := ms, dphase := .err, derr := .invalidMagic }

theorem witness_OnlyCommandsLeaveError_hold : ∃ s t : State, s.dphase = .err ∧ step s = .next t ∧ t.dphase = .err :=
  ⟨errorState [.pass], _, rfl, rfl, rfl⟩

theorem witness_OnlyCommandsLeaveError_start : ∃ s t : State, s.dphase = .err ∧ step s = .next t ∧ t.dphase = .hdr :=
  ⟨errorState [.command .startDecode], _, rfl, rfl, rfl⟩

theorem witness_OnlyCommandsLeaveError_reset : ∃ s t : State, s.dphase = .err ∧ step s = .next t ∧ t.dphase = .idle :=
  ⟨errorState [.command .reset], _, rfl, rfl, rfl⟩

/-- A failed conversion, with the host's moves `ms` to come. -/
def convertErrorState (ms : List HostMove) : State :=
  { decodedState with host := ms, cphase := .err, cerr := .allocationFailed }

theorem witness_OnlyCommandsLeaveError_convert_hold : ∃ s t : State, s.cphase = .err ∧ step s = .next t ∧
    t.cphase = .err := ⟨convertErrorState [.command .startDecode], _, rfl, rfl, rfl⟩

theorem witness_OnlyCommandsLeaveError_convert_start : ∃ s t : State, s.cphase = .err ∧ step s = .next t ∧
    t.cphase = .alloc := ⟨convertErrorState [.command .startConvert], _, rfl, rfl, rfl⟩

theorem witness_OnlyCommandsLeaveError_convert_reset : ∃ s t : State, s.cphase = .err ∧ step s = .next t ∧
    t.cphase = .idle := ⟨convertErrorState [.command .reset], _, rfl, rfl, rfl⟩

theorem witness_IdleUnitsTakeNoStep : ∃ s : State, (s.dphase = .idle ∨ s.dphase = .ok ∨ s.dphase = .err) ∧
    (s.cphase = .idle ∨ s.cphase = .ok ∨ s.cphase = .err) ∧ s.host = [] := ⟨decodedState, by decide⟩

theorem witness_IdleUnitsTakeNoStep_pass : ∃ s : State, (s.dphase = .idle ∨ s.dphase = .ok ∨ s.dphase = .err) ∧
    (s.cphase = .idle ∨ s.cphase = .ok ∨ s.cphase = .err) ∧ ∃ rest, s.host = .pass :: rest :=
  ⟨errorState [.pass], by decide, by decide, [], rfl⟩

/-- The header step is next, and the source has answered `bs` alone. -/
def openHeader (bs : List Byte) : State :=
  { headerState [] with src := { answers := bs.map .byte, closed := false } }

/-- The first and the last byte of the magic. -/
theorem witness_CoreWaitsForAnswers_magic_first : ∃ s k, s.dphase = .hdr ∧ k < 4 ∧
    (∀ j, j < k → ∃ v, Answers s j v) ∧ Unanswered s k :=
  ⟨openHeader [], 0, rfl, by decide, fun j h => by omega, by decide⟩

theorem witness_CoreWaitsForAnswers_magic_last : ∃ s k, s.dphase = .hdr ∧ k < 4 ∧
    (∀ j, j < k → ∃ v, Answers s j v) ∧ Unanswered s k :=
  ⟨openHeader [7, 7, 7], 3, rfl, by decide, fun j h => ⟨7, by interval_cases j <;> decide⟩, by decide⟩

/-- The first and the last header field byte. -/
theorem witness_CoreWaitsForAnswers_field_first : ∃ s k, s.dphase = .hdr ∧ Answers s 0 0x71 ∧ Answers s 1 0x6F ∧
    Answers s 2 0x69 ∧ Answers s 3 0x66 ∧ k < 10 ∧ (∀ j, j < k → ∃ v, Supplies s (4 + j) v) ∧
    Unanswered s (4 + k) :=
  ⟨openHeader [0x71, 0x6F, 0x69, 0x66], 0, rfl, rfl, rfl, rfl, rfl, by decide, fun j h => by omega, rfl⟩

theorem witness_CoreWaitsForAnswers_field_last : ∃ s k, s.dphase = .hdr ∧ Answers s 0 0x71 ∧ Answers s 1 0x6F ∧
    Answers s 2 0x69 ∧ Answers s 3 0x66 ∧ k < 10 ∧ (∀ j, j < k → ∃ v, Supplies s (4 + j) v) ∧
    Unanswered s (4 + k) :=
  ⟨openHeader ([0x71, 0x6F, 0x69, 0x66] ++ List.replicate 9 7), 9, rfl, rfl, rfl, rfl, rfl, by decide,
    fun j h => ⟨7, by interval_cases j <;> decide⟩, rfl⟩

theorem witness_CoreWaitsForAnswers_opcode : ∃ s : State, s.dphase = .pix ∧ s.run = 0 ∧ Unanswered s 0 :=
  ⟨openState [], by decide⟩

theorem witness_CoreWaitsForAnswers_extra : ∃ s b1 k, s.dphase = .pix ∧ s.run = 0 ∧ Supplies s 0 b1 ∧
    k < opcodeLength b1 - 1 ∧ (∀ j, j < k → ∃ v, Supplies s (j + 1) v) ∧ Unanswered s (k + 1) :=
  ⟨openState [0xFF, 7, 7, 7], 0xFF, 3, rfl, rfl, by decide, by decide,
    fun j h => ⟨7, by interval_cases j <;> decide⟩, by decide⟩

theorem witness_CoreWaitsForAnswers_alloc : ∃ s : State, s.dphase ≠ .hdr ∧ s.dphase ≠ .pix ∧ s.cphase = .alloc ∧
    s.alloc = none := ⟨{ allocState with alloc := none }, by decide⟩

theorem witness_HostMovesAndTurns_supply : ∃ (s : State) (rest : List HostMove), ∃ src, s.host = .supply src :: rest :=
  ⟨errorState [.supply (bodySource [])], [], bodySource [], rfl⟩

theorem witness_HostMovesAndTurns_answer : ∃ (s : State) (rest : List HostMove), ∃ a,
    s.host = .answerAlloc a :: rest := ⟨errorState [.answerAlloc .refused], [], .refused, rfl⟩

/-- An answer is already held. -/
theorem witness_HostMovesAndTurns_answer_held : ∃ (s : State) (rest : List HostMove), ∃ a held,
    s.host = .answerAlloc a :: rest ∧ s.alloc = some held ∧ held ≠ a :=
  ⟨{ allocState with host := [.answerAlloc .refused] }, [], .refused, .granted 100, by decide⟩

theorem witness_HostMovesAndTurns_pass : ∃ (s t : State) (rest : List HostMove), s.host = .pass :: rest ∧
    step { s with host := [] } = .next t :=
  ⟨{ loopState Pixel.initial [0x35] with host := [.pass] }, _, [], rfl, rfl⟩

theorem witness_HostMovesAndTurns_hold : ∃ (s : State) (rest : List HostMove), s.host = .pass :: rest ∧
    step { s with host := [] } = .fault .noStepEnabled := ⟨errorState [.pass], [], rfl, rfl⟩

/-- Only a state outside the main invariant stops here. -/
theorem witness_HostMovesAndTurns_fault : ∃ (s : State) (rest : List HostMove), s.host = .pass :: rest ∧
    step { s with host := [] } = .fault .imageSlotUnwritten :=
  ⟨{ copyState with host := [.pass], img := [] }, [], rfl, rfl⟩

theorem witness_DecodeTerminates_header : ∃ s, HeaderTurn s ∧ s.src.closed = true :=
  ⟨headerState (headerBytes 1 1 4 0), by decide⟩

theorem witness_DecodeTerminates_loop : ∃ s, CoreInv s ∧ s.host = [] ∧ s.dphase = .pix ∧ s.src.closed = true :=
  ⟨loopState Pixel.initial [0xFF, 1], loopState_inv _ _, by decide⟩

/-! Commands. -/

theorem witness_StartDecodeCommand : ∃ (s : State) (rest : List HostMove), s.host = .command .startDecode :: rest ∧
    (s.dphase = .idle ∨ s.dphase = .ok ∨ s.dphase = .err) ∧ s.cphase ≠ .alloc ∧ s.cphase ≠ .copy :=
  ⟨errorState [.command .startDecode], [], by decide⟩

theorem witness_StartConvertCommand : ∃ (s : State) (rest : List HostMove), s.host = .command .startConvert :: rest ∧
    s.imgValid = true ∧ s.cphase ≠ .alloc ∧ s.cphase ≠ .copy :=
  ⟨convertErrorState [.command .startConvert], [], by decide⟩

/-- RESET in the middle of a conversion. -/
theorem witness_ResetCommand : ∃ (s : State) (rest : List HostMove), s.host = .command .reset :: rest ∧
    s.cphase = .copy := ⟨{ copyState with host := [.command .reset] }, [], by decide⟩

theorem witness_StartDecodeCommand_notEnabled : ∃ (s : State) (rest : List HostMove),
    s.host = .command .startDecode :: rest ∧
    (s.dphase = .hdr ∨ s.dphase = .pix ∨ s.cphase = .alloc ∨ s.cphase = .copy) :=
  ⟨{ copyState with host := [.command .startDecode] }, [], by decide⟩

theorem witness_StartConvertCommand_notEnabled : ∃ (s : State) (rest : List HostMove),
    s.host = .command .startConvert :: rest ∧ (s.imgValid = false ∨ s.cphase = .alloc ∨ s.cphase = .copy) :=
  ⟨errorState [.command .startConvert], [], by decide⟩

/-! The permuter. -/

theorem witness_AllocationStep_granted : ∃ s : State, s.host = [] ∧ s.dphase ≠ .hdr ∧ s.dphase ≠ .pix ∧
    s.cphase = .alloc ∧ ∃ base, s.alloc = some (.granted base) :=
  ⟨allocState, by decide, by decide, by decide, by decide, 100, by decide⟩

theorem witness_AllocationStep_refused : ∃ s : State, s.host = [] ∧ s.dphase ≠ .hdr ∧ s.dphase ≠ .pix ∧
    s.cphase = .alloc ∧ s.alloc = some .refused := ⟨{ allocState with alloc := some .refused }, by decide⟩

/-- The last copy step. -/
theorem witness_CopyStep_last : ∃ (s : State) (p : Pixel), s.host = [] ∧ s.dphase ≠ .hdr ∧ s.dphase ≠ .pix ∧
    s.cphase = .copy ∧ s.cpos < s.npix ∧ readSlot s.img s.cpos = some p ∧ s.cpos + 1 = s.npix ∧ s.hdrCh = 4 :=
  ⟨copyState, ⟨16, 32, 48, 255⟩, by decide⟩

/-- The last copy step of a three-channel image. -/
theorem witness_CopyStep_last_rgb : ∃ (s : State) (p : Pixel), s.host = [] ∧ s.dphase ≠ .hdr ∧ s.dphase ≠ .pix ∧
    s.cphase = .copy ∧ s.cpos < s.npix ∧ readSlot s.img s.cpos = some p ∧ s.cpos + 1 = s.npix ∧ s.hdrCh = 3 :=
  ⟨{ copyState with hdrCh := 3 }, ⟨16, 32, 48, 255⟩, by decide⟩

theorem witness_CopyStep_more : ∃ (s : State) (p : Pixel), s.host = [] ∧ s.dphase ≠ .hdr ∧ s.dphase ≠ .pix ∧
    s.cphase = .copy ∧ s.cpos < s.npix ∧ readSlot s.img s.cpos = some p ∧ s.cpos + 1 ≠ s.npix :=
  ⟨{ copyState with cpos := 0 }, ⟨10, 20, 30, 40⟩, by decide⟩

/-- The decoded image's slots hold its two pixels. -/
theorem decodedState_written (k : Nat) (h : k < 2) : ∃ p, readSlot decodedState.img k = some p := by
  interval_cases k
  · exact ⟨⟨10, 20, 30, 40⟩, by decide⟩
  · exact ⟨⟨16, 32, 48, 255⟩, by decide⟩

/-- The decoded state meets the main invariant. -/
theorem decodedState_inv : CoreInv decodedState where
  imgForm := by decide
  bmpForm := by decide
  imgValid_iff := by decide
  derr_iff := by decide
  bmpValid_iff := by decide
  cerr_iff := by decide
  exclusive := by decide
  unread := by decide
  header := by decide
  looping := by decide
  ended := by decide
  written := fun _ k h => decodedState_written k h
  runRange := by decide
  reads := by decide
  uncopied := by decide
  copying := by decide

theorem allocState_inv : CoreInv allocState :=
  { decodedState_inv with
    bmpValid_iff := by decide
    cerr_iff := by decide
    exclusive := by decide
    uncopied := by decide
    copying := by decide }

theorem copyState_inv : CoreInv copyState :=
  { decodedState_inv with
    bmpForm := by decide
    bmpValid_iff := by decide
    cerr_iff := by decide
    exclusive := by decide
    uncopied := by decide
    copying := by decide }

theorem witness_ConversionWritesWholeSurface : ∃ (s : State) (base : Nat), CoreInv s ∧ s.host = [] ∧
    s.cphase = .alloc ∧ s.alloc = some (.granted base) := ⟨allocState, 100, allocState_inv, by decide⟩

/-! Invariants. -/

theorem witness_StepKeepsInvariant_loop : ∃ s t : State, CoreInv s ∧ step s = .next t :=
  ⟨loopState Pixel.initial [0x35], _, loopState_inv _ _, rfl⟩

theorem witness_StepKeepsInvariant_copy : ∃ s t : State, CoreInv s ∧ step s = .next t :=
  ⟨copyState, _, copyState_inv, rfl⟩

theorem witness_StepKeepsCacheInvariant : ∃ s t : State, CacheInv s ∧ step s = .next t :=
  ⟨loopState Pixel.initial [0x35], _,
    ⟨fun h => (by cases h), fun _ i => .inl (idxRead_replicate _ i), fun _ => .inr ⟨rfl, fun i => idxRead_replicate _ i⟩⟩,
    rfl⟩

theorem witness_StepKeepsSurfaceInvariant : ∃ s t : State, CoreInv s ∧ SurfaceInv s ∧ s.cphase = .copy ∧
    0 < s.cpos ∧ step s = .next t :=
  ⟨copyState, _, copyState_inv, fun _ k hk => by
    obtain rfl : k = 0 := by
      have : copyState.cpos = 1 := rfl
      omega
    exact ⟨⟨10, 20, 30, 40⟩, by decide, by decide, by decide, by decide, by decide⟩, by decide, by decide, rfl⟩

theorem witness_CountersFitTheirRegisters : ∃ s : State, CoreInv s ∧ s.cfg.pixelsMax = 400000000 ∧ Decoded s ∧
    s.cphase = .copy := ⟨copyState, copyState_inv, by decide⟩

/-! Rules about the whole machine: each transition of a flag happens. -/

/-- The last iteration of the loop. -/
def lastIteration : State :=
  { loopState Pixel.initial [0x35] with npix := 1, hdrH := 1 }

theorem lastIteration_inv : CoreInv lastIteration :=
  { loopState_inv Pixel.initial [0x35] with
    header := fun _ => by decide
    looping := fun _ => by decide
    ended := by simp [lastIteration, loopState]
    copying := by simp [lastIteration, loopState, State.reset] }

theorem witness_ValidFlags_image_set : ∃ s t : State, CoreInv s ∧ step s = .next t ∧ s.imgValid = false ∧
    t.imgValid = true := ⟨lastIteration, _, lastIteration_inv, rfl, rfl, rfl⟩

theorem witness_ValidFlags_image_cleared : ∃ s t : State, CoreInv s ∧ step s = .next t ∧ s.imgValid = true ∧
    t.imgValid = false :=
  ⟨{ decodedState with host := [.command .startDecode] }, _, { decodedState_inv with }, rfl, rfl, rfl⟩

theorem witness_ValidFlags_surface_set : ∃ s t : State, CoreInv s ∧ step s = .next t ∧ s.bmpValid = false ∧
    t.bmpValid = true := ⟨copyState, _, copyState_inv, rfl, rfl, rfl⟩

/-- The state after a conversion, with START_CONVERT next. -/
def convertedState : State :=
  { decodedState with host := [.command .startConvert], cphase := .ok, bmpValid := true, cpos := 2 }

theorem convertedState_inv : CoreInv convertedState :=
  { decodedState_inv with
    bmpValid_iff := by decide
    cerr_iff := by decide
    exclusive := by decide
    uncopied := by decide
    copying := by decide }

theorem witness_ValidFlags_surface_cleared : ∃ s t : State, CoreInv s ∧ step s = .next t ∧ s.bmpValid = true ∧
    t.bmpValid = false := ⟨convertedState, _, convertedState_inv, rfl, rfl, rfl⟩

theorem witness_ValidImageIsComplete : ∃ s : State, CoreInv s ∧ s.imgValid = true ∧ 0 < s.npix :=
  ⟨decodedState, decodedState_inv, by decide⟩

theorem witness_HostReadsOnlyWhatIsReadable : ∃ s : State, s.imgValid = false ∧ s.bmpValid = false ∧ s.npix ≤ 2 :=
  ⟨loopState Pixel.initial [], by decide⟩

/-- A completed conversion: ALPHA_MODE and a byte of the surface. -/
theorem witness_HostReadsOnlyWhatIsReadable_surface : ∃ s : State, ∃ o v, s.bmpValid = true ∧ s.alphaMode = .argb ∧
    Memory.read s.bmp (s.bmpBase + o) = some v :=
  ⟨{ copyState with cphase := .ok, bmpValid := true, alphaMode := .argb }, 3, 40, by decide⟩

/-- The same of a three-channel image: ALPHA_MODE RGB. -/
theorem witness_HostReadsOnlyWhatIsReadable_rgb : ∃ s : State, s.bmpValid = true ∧ s.alphaMode = .rgb :=
  ⟨{ copyState with hdrCh := 3, cphase := .ok, bmpValid := true, alphaMode := .rgb }, by decide⟩

theorem witness_ConfigurationIsFixed : ∃ s t : State, step s = .next t ∧ s.host ≠ [] :=
  ⟨errorState [.command .reset], _, rfl, by decide⟩

theorem witness_DecodeLeavesPermuter : ∃ s t : State, s.host = [] ∧ (s.dphase = .hdr ∨ s.dphase = .pix) ∧
    step s = .next t := ⟨headerState (headerBytes 1 1 4 0), _, rfl, .inl rfl, rfl⟩

theorem witness_PermuterLeavesDecode : ∃ s t : State, s.host = [] ∧ s.dphase ≠ .hdr ∧ s.dphase ≠ .pix ∧
    step s = .next t := ⟨allocState, _, rfl, by decide, by decide, rfl⟩

theorem witness_ChannelCountDoesNotReachThePixels : ∃ s t : State, s.host = [] ∧ s.dphase = .pix ∧ s.hdrCh ≠ 3 ∧
    step s = .next t := ⟨loopState Pixel.initial [0xFF, 1, 2, 3, 4], _, rfl, rfl, by decide, rfl⟩

theorem witness_ColourSpaceIsOnlyRecorded : ∃ s t : State, s.host = [] ∧ s.dphase ≠ .hdr ∧ s.hdrCs ≠ 1 ∧
    step s = .next t := ⟨copyState, _, rfl, by decide, by decide, rfl⟩

end Sys2Proof.Tests
end

section
/-! The frame of the core's steps, and from it the configuration's (O41): the decode engine's steps keep the permuter's
side, the permuter's steps keep the decode side, and the configuration belongs to both. -/

namespace Sys2Proof.Machine

/-! ## The decode engine's steps -/

/-- Byte requests touch nothing of the permuter's side. -/
@[simp] theorem keepsConvertSide_consume {n : Nat} {s t : State} :
    KeepsConvertSide (consume n s) t ↔ KeepsConvertSide s t := by
  simp [KeepsConvertSide]

/-- Loading the fields and checking them keep the permuter's side, whether the header is accepted or not (R105). -/
theorem acceptHeader_loadFields_keepsConvertSide (fs : List Byte) (s : State) :
    KeepsConvertSide s (acceptHeader (loadFields fs s)) := by
  unfold acceptHeader
  split
  · simp [KeepsConvertSide, loadFields]
  · simp [KeepsConvertSide, loadFields]

theorem headerStep_keepsConvertSide {s t : State} (h : headerStep s = .next t) : KeepsConvertSide s t := by
  rcases headerStep_cases s with ⟨_, fs, _, _, _, _, _, hs⟩ | ⟨n, _, hs⟩ | ⟨n, _, _, hs⟩ | hs <;> cases hs.symm.trans h
  · exact keepsConvertSide_consume.1 (acceptHeader_loadFields_keepsConvertSide fs (consume 14 s))
  · simp [KeepsConvertSide]
  · simp [KeepsConvertSide]

theorem opcodeIteration_keepsConvertSide {s t : State} (h : opcodeIteration s = .next t) : KeepsConvertSide s t := by
  rcases opcodeIteration_cases s with ⟨b1, _, i, _, _, hs⟩ | ⟨k, _, _, _, hs⟩ | ⟨k, _, _, hs⟩
  · obtain ⟨u, hu, hframe, -⟩ := exec_emits i (consume (opcodeLength b1) s)
    cases (hs.trans hu).symm.trans h
    exact keepsConvertSide_consume.1 hframe.1
  · cases hs.symm.trans h
    simp [KeepsConvertSide]
  · cases hs.symm.trans h

theorem repeatPixel_keepsConvertSide (s : State) : KeepsConvertSide s (repeatPixel s) :=
  (emitPx_frame { s with run := s.run - 1 }).1.1

/-! ## The permuter's steps -/

theorem allocStep_keepsDecodeSide {s t : State} (h : allocStep s = .next t) : KeepsDecodeSide s t := by
  rcases allocStep_next h with ⟨base, _, rfl⟩ | ⟨_, rfl⟩
  · simp [KeepsDecodeSide, KeepsHeader]
  · simp [KeepsDecodeSide, KeepsHeader]

theorem copyStep_keepsDecodeSide {s t : State} (h : copyStep s = .next t) : KeepsDecodeSide s t := by
  obtain ⟨p, _, rfl⟩ := copyStep_next h
  simp [KeepsDecodeSide, KeepsHeader, copyPixel]

/-! ## One step -/

/-- Every step of the core is one of the two units' and keeps what belongs to the other. -/
theorem coreStep_keeps_other_side {s t : State} (h : coreStep s = .next t) :
    KeepsConvertSide s t ∨ KeepsDecodeSide s t := by
  rcases coreStep_next h with ⟨_, hs⟩ | ⟨_, _, hs⟩ | ⟨_, _, rfl⟩ | ⟨_, _, _, hs⟩ | ⟨_, _, _, _, hs⟩
  · exact .inl (headerStep_keepsConvertSide hs)
  · exact .inl (opcodeIteration_keepsConvertSide hs)
  · exact .inl (repeatPixel_keepsConvertSide s)
  · exact .inr (allocStep_keepsDecodeSide hs)
  · exact .inr (copyStep_keepsDecodeSide hs)

theorem coreStep_cfg {s t : State} (h : coreStep s = .next t) : t.cfg = s.cfg := by
  rcases coreStep_keeps_other_side h with ⟨hcfg, -⟩ | ⟨hcfg, -⟩
  · exact hcfg
  · exact hcfg

/-- Settles O41: a step is the core's own, the core's holding, or a move of the host, and none of them writes the
configuration. -/
theorem configurationIsFixed : Obligations.ConfigurationIsFixed := by
  intro s t h
  rcases step_next h with ⟨_, hc⟩ | ⟨m, rest, _, ⟨_, hc | rfl⟩ | ⟨_, rfl⟩ | ⟨_, _, rfl⟩ | ⟨_, _, rfl⟩ | ⟨src, _, rfl⟩ |
    ⟨a, _, rfl⟩⟩
  · exact coreStep_cfg hc
  · exact (coreStep_cfg hc :)
  · rfl
  · exact resetCommand_cfg { s with host := rest }
  · exact startDecode_cfg { s with host := rest }
  · exact startConvert_cfg { s with host := rest }
  · rfl
  · rfl

end Sys2Proof.Machine
end

section
/-! What one step can be, and from it the core's main invariant (O33). A step that emits a pixel is one update of PX, IDX,
RUN and the read counters followed by Emit, whatever the opcode; each of the other actions is one record update. -/

namespace Sys2Proof.Machine

/-! ## What an iteration comes to -/

/-- Every opcode sets PX, IDX and RUN and emits PX (R122 to R128); RUN alone writes the run counter. -/
theorem exec_eq_emitPx (i : Instr) (s : State) : ∃ p idx run,
    exec i s = .next (emitPx { s with px := p, idx := idx, run := run }) ∧ (run = s.run ∨ i = .run run) := by
  cases i with
  | run n => exact ⟨s.px, s.idx, n, rfl, .inr rfl⟩
  | rgb r g b => exact ⟨_, _, s.run, rfl, .inl rfl⟩
  | rgba r g b a => exact ⟨_, _, s.run, rfl, .inl rfl⟩
  | index i => exact ⟨_, _, s.run, rfl, .inl rfl⟩
  | diff dr dg db => exact ⟨_, _, s.run, rfl, .inl rfl⟩
  | luma vg drg dbg => exact ⟨_, _, s.run, rfl, .inl rfl⟩

/-- A RUN byte's field is at most 61: the two larger ones are RGB and RGBA (R79). -/
theorem field_le_of_select_run {b1 : Byte} (h : select b1 = .run) : field b1 0 6 ≤ 61 := by
  revert b1
  decide

theorem decode_run_le {b1 : Byte} {extra rest : List Byte} {n : BitVec 6}
    (h : decode (b1 :: extra) = .ok (.run n, rest)) : n.toNat ≤ 61 := by
  unfold decode at h
  cases hs : select b1 <;> simp only [hs] at h
  case run =>
    cases h
    exact (Nat.mod_le _ _).trans (field_le_of_select_run hs)
  case index => cases h
  case diff => cases h
  all_goals split at h <;> cases h

/-- What an opcode iteration that answers a next state did: at most five reads and one emission, or StreamExhausted. -/
theorem opcodeIteration_next {s t : State} (h : opcodeIteration s = .next t) :
    (∃ n p idx run, n ≤ 5 ∧ (run = s.run ∨ run.toNat ≤ 61) ∧
      t = emitPx { consume n s with px := p, idx := idx, run := run }) ∨
    (∃ n, t = raiseDecode .streamExhausted (consume n s)) := by
  rcases opcodeIteration_cases s with ⟨b1, extra, i, _, hdec, hs⟩ | ⟨k, _, _, _, hs⟩ | ⟨k, _, _, hs⟩
  · obtain ⟨p, idx, run, hexec, hrun⟩ := exec_eq_emitPx i (consume (opcodeLength b1) s)
    cases (hs.trans hexec).symm.trans h
    refine .inl ⟨opcodeLength b1, p, idx, run, opcodeLength_le b1, hrun.imp_right ?_, rfl⟩
    rintro rfl
    exact decode_run_le hdec
  · cases hs.symm.trans h
    exact .inr ⟨k + 1, rfl⟩
  · cases hs.symm.trans h

/-! ## What one step comes to -/

/-- The action behind a next state: the core's own step, the host's or the core's touching nothing but the host's side,
or a command. -/
theorem step_next_action {s t : State} (h : step s = .next t) :
    (∃ moves, coreStep { s with host := moves } = .next t) ∨
    (∃ moves src alloc, t = { s with host := moves, src := src, alloc := alloc }) ∨
    ∃ rest,
      (s.host = .command .reset :: rest ∧ t = resetCommand { s with host := rest }) ∨
      (s.host = .command .startDecode :: rest ∧ startDecodeEnabled s = true ∧ t = startDecode { s with host := rest }) ∨
      (s.host = .command .startConvert :: rest ∧ startConvertEnabled s = true ∧
        t = startConvert { s with host := rest }) := by
  rcases step_next h with ⟨_, hc⟩ | ⟨m, rest, hh, ⟨rfl, hc | rfl⟩ | ⟨rfl, rfl⟩ | ⟨rfl, hen, rfl⟩ | ⟨rfl, hen, rfl⟩ |
    ⟨src, _, rfl⟩ | ⟨a, _, rfl⟩⟩
  · exact .inl ⟨s.host, hc⟩
  · exact .inl ⟨rest, hc⟩
  · exact .inr (.inl ⟨rest, s.src, s.alloc, rfl⟩)
  · exact .inr (.inr ⟨rest, .inl ⟨hh, rfl⟩⟩)
  · exact .inr (.inr ⟨rest, .inr (.inl ⟨hh, hen, rfl⟩)⟩)
  · exact .inr (.inr ⟨rest, .inr (.inr ⟨hh, hen, rfl⟩)⟩)
  · exact .inr (.inl ⟨rest, src, s.alloc, rfl⟩)
  · exact .inr (.inl ⟨rest, s.src, some a, rfl⟩)

/-! ## Facts of the invariant -/

/-- A header that passes its checks has at least one pixel and fewer than the ceiling (R106). -/
theorem headerOk_pixels {pixelsMax : Nat} {w h : Word32} {ch cs : Byte} (hok : headerOk pixelsMax w h ch cs = true) :
    0 < w.toNat * h.toNat ∧ w.toNat * h.toNat < pixelsMax := by
  simp only [headerOk, Bool.and_eq_true, decide_eq_true_eq] at hok
  obtain ⟨⟨⟨⟨hw, hh⟩, _⟩, _⟩, hguard⟩ := hok
  refine ⟨Nat.mul_pos (by omega) (by omega), ?_⟩
  calc w.toNat * h.toNat < w.toNat * (h.toNat + 1) := Nat.mul_lt_mul_of_pos_left (Nat.lt_succ_self _) (by omega)
    _ ≤ pixelsMax := by rwa [Nat.mul_comm, ← Nat.le_div_iff_mul_le (by omega)]

theorem CoreInv.npix_pos {s : State} (hs : CoreInv s) (hd : Decoded s) : 0 < s.npix ∧ s.npix < s.cfg.pixelsMax := by
  obtain ⟨hok, hnpix⟩ := hs.header hd
  exact hnpix ▸ headerOk_pixels hok

/-- The permuter is at rest while the decode engine runs (R32). -/
theorem CoreInv.permuter_idle {s : State} (hs : CoreInv s) (hrun : s.dphase = .hdr ∨ s.dphase = .pix) :
    s.cphase ≠ .alloc ∧ s.cphase ≠ .copy := by
  refine ⟨fun hc => ?_, fun hc => ?_⟩
  · have := hs.exclusive (.inl hc)
    simp_all
  · have := hs.exclusive (.inr hc)
    simp_all

/-- No error and no image while the decode engine runs (R30, R31). -/
theorem CoreInv.flags_clear {s : State} (hs : CoreInv s) (hrun : s.dphase = .hdr ∨ s.dphase = .pix) :
    s.imgValid = false ∧ s.derr = .none := by
  have hv := hs.imgValid_iff
  have he := hs.derr_iff
  rcases hrun with h | h <;> simp_all

/-! ## The host's side and the commands -/

theorem CoreInv.hostSide {s : State} (hs : CoreInv s) (moves : List HostMove) (src : Source)
    (alloc : Option AllocAnswer) : CoreInv { s with host := moves, src := src, alloc := alloc } :=
  { hs with }

theorem CoreInv.resetCommand {s : State} (hs : CoreInv s) : CoreInv (resetCommand s) :=
  { hs with
    imgForm := .nil
    imgValid_iff := by simp
    derr_iff := by simp
    bmpValid_iff := by simp
    cerr_iff := by simp
    exclusive := by simp
    unread := by simp
    header := by simp
    looping := by simp
    ended := by simp
    written := by simp
    runRange := by simp
    reads := by simp
    uncopied := by simp
    copying := by simp }

theorem CoreInv.startDecode {s : State} (hs : CoreInv s) (hen : startDecodeEnabled s = true) :
    CoreInv (startDecode s) :=
  { hs with
    imgValid_iff := by simp
    derr_iff := by simp
    exclusive := by simp_all [startDecodeEnabled]
    unread := by simp
    header := by simp
    looping := by simp
    ended := by simp
    written := by simp
    runRange := by simp
    reads := by simp }

theorem CoreInv.startConvert {s : State} (hs : CoreInv s) (hen : startConvertEnabled s = true) :
    CoreInv (startConvert s) :=
  { hs with
    bmpValid_iff := by simp
    cerr_iff := by simp
    exclusive := fun _ => hs.imgValid_iff.1 (by simp_all [startConvertEnabled])
    uncopied := by simp
    copying := by simp }

/-! ## The decode engine -/

theorem CoreInv.raiseDecode {s : State} (hs : CoreInv s) (hrun : s.dphase = .hdr ∨ s.dphase = .pix) {e : DecodeErr}
    (he : e ≠ .none) (n : Nat) : CoreInv (raiseDecode e (consume n s)) :=
  { hs with
    imgForm := .nil
    imgValid_iff := by simp
    derr_iff := by simp [he]
    exclusive := by simpa using hs.permuter_idle hrun
    unread := by simp
    header := by simp
    looping := by simp
    ended := by simp
    written := by simp
    runRange := by simp
    reads := by simp
    copying := by simp [(hs.permuter_idle hrun).2] }

/-- The header is accepted (R107). -/
theorem CoreInv.acceptedHeader {s : State} (hs : CoreInv s) (hhdr : s.dphase = .hdr) {w h : Word32} {ch cs : Byte}
    (hok : headerOk s.cfg.pixelsMax w h ch cs = true) :
    CoreInv { consume 14 s with hdrW := w, hdrH := h, hdrCh := ch, hdrCs := cs, npix := w.toNat * h.toNat,
                                dphase := .pix } := by
  obtain ⟨hrd, hrq, hpos, hrun⟩ := hs.unread hhdr
  obtain ⟨hv, he⟩ := hs.flags_clear (.inl hhdr)
  obtain ⟨hna, hnc⟩ := hs.permuter_idle (.inl hhdr)
  exact
  { hs with
    imgValid_iff := by simp [hv]
    derr_iff := by simp [he]
    exclusive := by simp [hna, hnc]
    unread := by simp
    header := fun _ => ⟨hok, rfl⟩
    looping := fun _ => by simpa [hpos] using (headerOk_pixels hok).1
    ended := by simp
    written := fun _ k hk => by simp [hpos] at hk
    runRange := by simp [hrun]
    reads := by simp [hrd, hrq]
    copying := by simp [hnc] }

theorem CoreInv.acceptHeader {s : State} (hs : CoreInv s) (hhdr : s.dphase = .hdr) (fs : List Byte) :
    CoreInv (acceptHeader (loadFields fs (consume 14 s))) := by
  unfold Machine.acceptHeader
  split
  · rename_i hok
    exact hs.acceptedHeader hhdr hok
  · exact { hs.raiseDecode (.inl hhdr) (e := .invalidHeader) (by simp) 14 with }

theorem CoreInv.headerStep {s t : State} (hs : CoreInv s) (hhdr : s.dphase = .hdr) (h : headerStep s = .next t) :
    CoreInv t := by
  rcases headerStep_cases s with ⟨_, fs, _, _, _, _, _, hn⟩ | ⟨n, _, hn⟩ | ⟨n, _, _, hn⟩ | hn <;> cases hn.symm.trans h
  · exact hs.acceptHeader hhdr fs
  · exact hs.raiseDecode (.inl hhdr) (by simp) n
  · exact hs.raiseDecode (.inl hhdr) (by simp) n

/-- Writing slot POS extends the slots that hold a pixel by one (R133). -/
theorem written_succ {m : Memory} {pos : Nat} (h : ∀ k, k < pos → ∃ p, readSlot m k = some p) (q : Pixel) :
    ∀ k, k < pos + 1 → ∃ p, readSlot (writeSlot m pos q) k = some p := by
  intro k hk
  by_cases heq : k = pos
  · subst heq
    exact ⟨q, readSlot_writeSlot_same m k q⟩
  · rw [readSlot_writeSlot_other m q heq]
    exact h k (by omega)

theorem emitPx_last {s : State} (h : s.pos + 1 = s.npix) :
    emitPx s = { emit s.px s with imgValid := true, dphase := .ok } := by
  simp [emitPx, endIteration, h]

theorem emitPx_more {s : State} (h : s.pos + 1 ≠ s.npix) : emitPx s = emit s.px s :=
  endIteration_more h

/-- One emission in the pixel loop, after at most five reads and with any PX and IDX (R131, R133, R134). -/
theorem CoreInv.emitPx {s : State} (hs : CoreInv s) (hpix : s.dphase = .pix) {n : Nat} (hn : n ≤ 5) (p : Pixel)
    (idx : IndexCache) {run : BitVec 6} (hrun : run.toNat ≤ 61) :
    CoreInv (emitPx { consume n s with px := p, idx := idx, run := run }) := by
  have hlt := hs.looping hpix
  have himg := writeSlot_wf hs.imgForm s.pos p
  have hwritten := written_succ (hs.written (.inl hpix)) p
  have hreads : s.requests + n = s.rdcnt + n ∧ 14 ≤ s.rdcnt + n ∧ s.rdcnt + n ≤ 14 + 5 * (s.pos + 1) := by
    have := hs.reads (.inl hpix)
    omega
  by_cases hlast : s.pos + 1 = s.npix
  · rw [emitPx_last (by exact hlast)]
    exact
    { hs with
      imgForm := himg
      imgValid_iff := by simp
      derr_iff := by simp [(hs.flags_clear (.inr hpix)).2]
      exclusive := fun _ => rfl
      unread := by simp
      header := fun _ => hs.header (.inl hpix)
      looping := by simp
      ended := fun _ => hlast
      written := fun _ => hwritten
      runRange := fun _ => hrun
      reads := fun _ => hreads }
  · rw [emitPx_more (by exact hlast)]
    exact
    { hs with
      imgForm := himg
      unread := by simp [hpix]
      looping := fun _ => lt_of_le_of_ne hlt hlast
      ended := by simp [hpix]
      written := fun _ => hwritten
      runRange := fun _ => hrun
      reads := fun _ => hreads }

theorem CoreInv.opcodeIteration {s t : State} (hs : CoreInv s) (hpix : s.dphase = .pix)
    (h : opcodeIteration s = .next t) : CoreInv t := by
  rcases opcodeIteration_next h with ⟨n, p, idx, run, hn, hrun, rfl⟩ | ⟨n, rfl⟩
  · refine hs.emitPx hpix hn p idx ?_
    rcases hrun with rfl | hle
    · exact hs.runRange (.inl hpix)
    · exact hle
  · exact hs.raiseDecode (.inr hpix) (by simp) n

theorem CoreInv.repeatPixel {s : State} (hs : CoreInv s) (hpix : s.dphase = .pix) (hrun : s.run ≠ 0) :
    CoreInv (repeatPixel s) := by
  have hle := hs.runRange (.inl hpix)
  exact hs.emitPx hpix (n := 0) (by omega) s.px s.idx (run := s.run - 1) (by bv_omega)

/-! ## The permuter -/

theorem CoreInv.grantSurface {s : State} (hs : CoreInv s) (hc : s.cphase = .alloc) (base : Nat) :
    CoreInv (grantSurface base s) := by
  have hok := hs.exclusive (.inl hc)
  exact
  { hs with
    bmpForm := Memory.forget_wf hs.bmpForm _ _
    bmpValid_iff := by simp [hs.bmpValid_iff, hc]
    cerr_iff := by simp [hs.cerr_iff, hc]
    exclusive := fun _ => hok
    uncopied := by simp
    copying := fun _ => by simpa [hs.uncopied hc] using (hs.npix_pos (.inr hok)).1 }

theorem CoreInv.raiseConvert {s : State} (hs : CoreInv s) (hc : s.cphase = .alloc) : CoreInv (raiseConvert s) :=
  { hs with
    bmpValid_iff := by simp [hs.bmpValid_iff, hc]
    cerr_iff := by simp
    exclusive := by simp
    uncopied := by simp
    copying := by simp }

theorem copyPixel_last {s : State} (p : Pixel) (h : s.cpos + 1 = s.npix) :
    copyPixel p s = { s with bmp := writeSurfacePixel s.bmp s.bmpBase s.cpos p, cpos := s.cpos + 1,
                             alphaMode := alphaModeOf s.hdrCh, bmpValid := true, cphase := .ok } := by
  simp [copyPixel, endCopy, h]

theorem copyPixel_more {s : State} (p : Pixel) (h : s.cpos + 1 ≠ s.npix) :
    copyPixel p s = { s with bmp := writeSurfacePixel s.bmp s.bmpBase s.cpos p, cpos := s.cpos + 1 } :=
  endCopy_more h

theorem CoreInv.copyPixel {s : State} (hs : CoreInv s) (hc : s.cphase = .copy) (p : Pixel) :
    CoreInv (copyPixel p s) := by
  have hlt := hs.copying hc
  have hbmp := writeSurfacePixel_wf hs.bmpForm s.bmpBase s.cpos p
  by_cases hlast : s.cpos + 1 = s.npix
  · rw [copyPixel_last p hlast]
    exact
    { hs with
      bmpForm := hbmp
      bmpValid_iff := by simp
      cerr_iff := by simp [hs.cerr_iff, hc]
      exclusive := by simp
      uncopied := by simp
      copying := by simp }
  · rw [copyPixel_more p hlast]
    exact
    { hs with
      bmpForm := hbmp
      uncopied := by simp [hc]
      copying := fun _ => lt_of_le_of_ne hlt hlast }

/-! ## Every step -/

theorem CoreInv.coreStep {s t : State} (hs : CoreInv s) (h : coreStep s = .next t) : CoreInv t := by
  rcases coreStep_next h with ⟨hhdr, hn⟩ | ⟨hpix, _, hn⟩ | ⟨hpix, hrun, rfl⟩ | ⟨_, _, hc, hn⟩ | ⟨_, _, hc, _, hn⟩
  · exact hs.headerStep hhdr hn
  · exact hs.opcodeIteration hpix hn
  · exact hs.repeatPixel hpix hrun
  · rcases allocStep_next hn with ⟨base, _, rfl⟩ | ⟨_, rfl⟩
    · exact hs.grantSurface hc base
    · exact (hs.hostSide s.host s.src none).raiseConvert hc
  · obtain ⟨p, _, rfl⟩ := copyStep_next hn
    exact hs.copyPixel hc p

/-- Settles O33: the core's own step keeps the invariant, a move that touches only the host's side does, and each of the
three commands does. -/
theorem stepKeepsInvariant : Obligations.StepKeepsInvariant := by
  intro s t hs h
  rcases step_next_action h with ⟨moves, hc⟩ | ⟨moves, src, alloc, rfl⟩ | ⟨rest, ⟨_, rfl⟩ | ⟨_, hen, rfl⟩ | ⟨_, hen, rfl⟩⟩
  · exact (hs.hostSide moves s.src s.alloc).coreStep hc
  · exact hs.hostSide moves src alloc
  · exact (hs.hostSide rest s.src s.alloc).resetCommand
  · exact (hs.hostSide rest s.src s.alloc).startDecode hen
  · exact (hs.hostSide rest s.src s.alloc).startConvert hen

end Sys2Proof.Machine
end

section
/-! What the main invariant says of the registers, the flags and the host's view (O37, O38, O39), what the host reads
(O40), and what the decode engine's steps keep (O42). -/

namespace Sys2Proof.Machine

/-! ## The counters -/

/-- Settles O37: the header guard bounds NPIX (R106), and POS, CPOS and RDCNT are bounded by NPIX. -/
theorem countersFitTheirRegisters : Obligations.CountersFitTheirRegisters := by
  intro s hs hmax hd
  obtain ⟨hpos, hlt⟩ := hs.npix_pos hd
  obtain ⟨_, _, hreads⟩ := hs.reads hd
  have hle : s.pos ≤ s.npix := by
    rcases hd with h | h
    · exact (hs.looping h).le
    · exact (hs.ended h).le
  refine ⟨by omega, by omega, hle, by omega, by omega, fun hc => ?_⟩
  have := hs.copying hc
  omega

/-! ## The two units' steps -/

/-- While the decode engine runs, the core's step is its own and keeps the permuter's side (R45, R220). -/
theorem coreStep_keepsConvertSide {s t : State} (hrun : s.dphase = .hdr ∨ s.dphase = .pix)
    (h : coreStep s = .next t) : KeepsConvertSide s t := by
  rcases coreStep_next h with ⟨_, hn⟩ | ⟨_, _, hn⟩ | ⟨_, _, rfl⟩ | ⟨hh, hp, _⟩ | ⟨hh, hp, _⟩
  · exact headerStep_keepsConvertSide hn
  · exact opcodeIteration_keepsConvertSide hn
  · exact repeatPixel_keepsConvertSide s
  · exact (hrun.elim hh hp).elim
  · exact (hrun.elim hh hp).elim

/-- Settles O42: with no host move the step is the core's, and the decode engine's steps keep the permuter's side. -/
theorem decodeLeavesPermuter : Obligations.DecodeLeavesPermuter := by
  intro s t hhost hrun h
  rcases step_next h with ⟨_, hc⟩ | ⟨m, rest, hh, _⟩
  · exact coreStep_keepsConvertSide hrun hc
  · simp [hhost] at hh

/-- While the decode engine is at rest, the core's step is an allocation or a copy step (R220). -/
theorem coreStep_next_permuter {s t : State} (hrest : ¬ (s.dphase = .hdr ∨ s.dphase = .pix))
    (h : coreStep s = .next t) :
    (s.cphase = .alloc ∧ allocStep s = .next t) ∨ (s.cphase = .copy ∧ copyStep s = .next t) := by
  rcases coreStep_next h with ⟨hh, _⟩ | ⟨hp, _⟩ | ⟨hp, _⟩ | ⟨_, _, hc, hn⟩ | ⟨_, _, hc, _, hn⟩
  · exact (hrest (.inl hh)).elim
  · exact (hrest (.inr hp)).elim
  · exact (hrest (.inr hp)).elim
  · exact .inl ⟨hc, hn⟩
  · exact .inr ⟨hc, hn⟩

theorem coreStep_keepsDecodeSide {s t : State} (hrest : ¬ (s.dphase = .hdr ∨ s.dphase = .pix))
    (h : coreStep s = .next t) : KeepsDecodeSide s t := by
  rcases coreStep_next_permuter hrest h with ⟨_, hn⟩ | ⟨_, hn⟩
  · exact allocStep_keepsDecodeSide hn
  · exact copyStep_keepsDecodeSide hn

/-! ## The valid flags -/

theorem KeepsConvertSide.bmpValid_eq {s t : State} (h : KeepsConvertSide s t) : t.bmpValid = s.bmpValid := by
  obtain ⟨_, _, _, _, _, _, hv, _⟩ := h
  exact hv

theorem KeepsDecodeSide.imgValid_eq {s t : State} (h : KeepsDecodeSide s t) : t.imgValid = s.imgValid := by
  obtain ⟨_, _, _, _, _, _, _, _, _, _, _, _, hv, _⟩ := h
  exact hv

/-- The header step never sets IMG_VALID. -/
theorem headerStep_imgValid {s t : State} (h : headerStep s = .next t) (hv : s.imgValid = false) :
    t.imgValid = false := by
  rcases headerStep_cases s with ⟨_, fs, _, _, _, _, _, hn⟩ | ⟨n, _, hn⟩ | ⟨n, _, _, hn⟩ | hn <;> cases hn.symm.trans h
  · unfold acceptHeader
    split
    · exact hv
    · rfl
  · rfl
  · rfl

/-- A copy step sets BMP_VALID only when it makes CPOS = NPIX (R166). -/
theorem copyPixel_sets_bmpValid {s : State} {p : Pixel} (hv : s.bmpValid = false)
    (ht : (copyPixel p s).bmpValid = true) : (copyPixel p s).cpos = (copyPixel p s).npix := by
  by_cases hlast : s.cpos + 1 = s.npix
  · rw [copyPixel_last p hlast]
    exact hlast
  · rw [copyPixel_more p hlast] at ht
    simp [hv] at ht

/-- The core's own step sets IMG_VALID only in the pixel loop. -/
theorem coreStep_sets_imgValid {s t : State} (h : coreStep s = .next t) (hv : s.imgValid = false)
    (ht : t.imgValid = true) : s.dphase = .pix := by
  rcases coreStep_next h with ⟨_, hn⟩ | ⟨hpix, _⟩ | ⟨hpix, _⟩ | ⟨_, _, _, hn⟩ | ⟨_, _, _, _, hn⟩
  · simp [headerStep_imgValid hn hv] at ht
  · exact hpix
  · exact hpix
  · simp [(allocStep_keepsDecodeSide hn).imgValid_eq, hv] at ht
  · simp [(copyStep_keepsDecodeSide hn).imgValid_eq, hv] at ht

/-- The core's own step never clears IMG_VALID: while an image is valid, only the permuter runs. -/
theorem CoreInv.coreStep_imgValid {s t : State} (hs : CoreInv s) (h : Machine.coreStep s = .next t)
    (hv : s.imgValid = true) : t.imgValid = true := by
  have hok := hs.imgValid_iff.1 hv
  rw [(coreStep_keepsDecodeSide (by simp [hok]) h).imgValid_eq, hv]

/-- The core's own step sets BMP_VALID only in a copy step that makes CPOS = NPIX. -/
theorem coreStep_sets_bmpValid {s t : State} (h : coreStep s = .next t) (hv : s.bmpValid = false)
    (ht : t.bmpValid = true) : s.cphase = .copy ∧ t.cpos = t.npix := by
  by_cases hrun : s.dphase = .hdr ∨ s.dphase = .pix
  · simp [(coreStep_keepsConvertSide hrun h).bmpValid_eq, hv] at ht
  rcases coreStep_next_permuter hrun h with ⟨_, hn⟩ | ⟨hc, hn⟩
  · rcases allocStep_next hn with ⟨base, _, rfl⟩ | ⟨_, rfl⟩ <;> simp [hv] at ht
  · obtain ⟨p, _, rfl⟩ := copyStep_next hn
    exact ⟨hc, copyPixel_sets_bmpValid hv ht⟩

/-- The core's own step never clears BMP_VALID: while a surface is valid, the permuter is at rest. -/
theorem CoreInv.coreStep_bmpValid {s t : State} (hs : CoreInv s) (h : Machine.coreStep s = .next t)
    (hv : s.bmpValid = true) : t.bmpValid = true := by
  have hok := hs.bmpValid_iff.1 hv
  by_cases hrun : s.dphase = .hdr ∨ s.dphase = .pix
  · rw [(coreStep_keepsConvertSide hrun h).bmpValid_eq, hv]
  · rcases coreStep_next_permuter hrun h with ⟨hc, _⟩ | ⟨hc, _⟩ <;> simp [hok] at hc

theorem step_sets_imgValid {s t : State} (h : step s = .next t) (hv : s.imgValid = false) (ht : t.imgValid = true) :
    s.dphase = .pix := by
  rcases step_next_action h with ⟨moves, hc⟩ | ⟨_, _, _, rfl⟩ | ⟨rest, ⟨_, rfl⟩ | ⟨_, _, rfl⟩ | ⟨_, _, rfl⟩⟩
  · exact (coreStep_sets_imgValid hc hv ht :)
  all_goals simp [hv] at ht

theorem CoreInv.step_clears_imgValid {s t : State} (hs : CoreInv s) (h : step s = .next t) (hv : s.imgValid = true)
    (ht : t.imgValid = false) : ∃ c rest, s.host = .command c :: rest ∧ (c = .startDecode ∨ c = .reset) := by
  rcases step_next_action h with ⟨moves, hc⟩ | ⟨_, _, _, rfl⟩ | ⟨rest, ⟨hh, _⟩ | ⟨hh, _⟩ | ⟨_, _, rfl⟩⟩
  · simp [(hs.hostSide moves s.src s.alloc).coreStep_imgValid hc hv] at ht
  · simp [hv] at ht
  · exact ⟨_, rest, hh, .inr rfl⟩
  · exact ⟨_, rest, hh, .inl rfl⟩
  · simp [hv] at ht

theorem step_sets_bmpValid {s t : State} (h : step s = .next t) (hv : s.bmpValid = false) (ht : t.bmpValid = true) :
    s.cphase = .copy ∧ t.cpos = t.npix := by
  rcases step_next_action h with ⟨moves, hc⟩ | ⟨_, _, _, rfl⟩ | ⟨rest, ⟨_, rfl⟩ | ⟨_, _, rfl⟩ | ⟨_, _, rfl⟩⟩
  · exact (coreStep_sets_bmpValid hc hv ht :)
  all_goals simp [hv] at ht

theorem CoreInv.step_clears_bmpValid {s t : State} (hs : CoreInv s) (h : step s = .next t) (hv : s.bmpValid = true)
    (ht : t.bmpValid = false) : ∃ c rest, s.host = .command c :: rest ∧ (c = .startConvert ∨ c = .reset) := by
  rcases step_next_action h with ⟨moves, hc⟩ | ⟨_, _, _, rfl⟩ | ⟨rest, ⟨hh, _⟩ | ⟨_, _, rfl⟩ | ⟨hh, _⟩⟩
  · simp [(hs.hostSide moves s.src s.alloc).coreStep_bmpValid hc hv] at ht
  · simp [hv] at ht
  · exact ⟨_, rest, hh, .inr rfl⟩
  · simp [hv] at ht
  · exact ⟨_, rest, hh, .inl rfl⟩

theorem CoreInv.derr_of_imgValid {s : State} (hs : CoreInv s) (hv : s.imgValid = true) : s.derr = .none := by
  by_contra he
  have herr := hs.derr_iff.1 he
  simp [hs.imgValid_iff.1 hv] at herr

/-- Settles O38: which step sets or clears a flag, with what the invariant says of the state in which the flag is 1. -/
theorem validFlagsChangeOnlyWhereStated : Obligations.ValidFlagsChangeOnlyWhereStated := by
  intro s t hs h
  have ht := stepKeepsInvariant s t hs h
  refine ⟨fun h0 h1 => ?_, hs.step_clears_imgValid h, fun h0 h1 => ?_, hs.step_clears_bmpValid h⟩
  · exact ⟨step_sets_imgValid h h0 h1, ht.ended (ht.imgValid_iff.1 h1), ht.derr_of_imgValid h1⟩
  · obtain ⟨hcopy, hcpos⟩ := step_sets_bmpValid h h0 h1
    exact ⟨hcopy, hcpos, ht.bmpValid_iff.1 h1⟩

/-! ## What the host reads -/

theorem hostRead_of_readable {f : StatusField} {s : State} (h : readable f s = true) :
    hostRead f s = statusValue f s := by
  simp [hostRead, h]

theorem hostRead_of_not_readable {f : StatusField} {s : State} (h : readable f s = false) :
    hostRead f s = .error (.notReadable f) := by
  simp [hostRead, h]

theorem hostRead_imgSlot {s : State} {k : Nat} {p : Pixel} (hv : s.imgValid = true) (hk : k < s.npix)
    (hp : readSlot s.img k = some p) : hostRead (.imgSlot k) s = .ok (.pixel p) := by
  rw [hostRead_of_readable (by simp [readable, hv, hk]), statusValue, hp]
  rfl

theorem hostRead_surfaceByte {s : State} {o : Nat} {v : Byte} (hv : s.bmpValid = true)
    (hb : Memory.read s.bmp (s.bmpBase + o) = some v) : hostRead (.surfaceByte o) s = .ok (.byte v) := by
  rw [hostRead_of_readable (f := .surfaceByte o) hv, statusValue, hb]
  rfl

/-- Settles O39: with IMG_VALID at 1 the decode has ended at POS = NPIX, and every slot before POS holds a pixel. -/
theorem validImageIsComplete : Obligations.ValidImageIsComplete := by
  intro s hs hv
  have hok := hs.imgValid_iff.1 hv
  refine ⟨hs.derr_of_imgValid hv, (hs.header (.inr hok)).2, fun k hk => ?_, hostRead_of_readable hv,
    hostRead_of_readable hv, hostRead_of_readable hv, hostRead_of_readable hv⟩
  obtain ⟨p, hp⟩ := hs.written (.inr hok) k (hs.ended hok ▸ hk)
  exact ⟨p, hostRead_imgSlot hv hk hp⟩

/-- Settles O40: where a field's "readable when" fails the read has no value, and elsewhere it gives the field's code. -/
theorem hostReadsOnlyWhatIsReadable : Obligations.HostReadsOnlyWhatIsReadable := by
  intro s
  refine ⟨fun hv f hf => ?_, fun k hk => ?_, fun hv f hf => ?_, fun hv => ⟨hostRead_of_readable hv, fun ha => ?_,
    fun ha => ?_, fun o v hb => hostRead_surfaceByte hv hb⟩, ⟨_, rfl, ?_⟩, ⟨_, rfl, ?_⟩, ⟨_, rfl, ?_⟩, ⟨_, rfl, ?_⟩,
    rfl, rfl⟩
  · rcases hf with rfl | rfl | rfl | rfl | ⟨k, rfl⟩ <;> exact hostRead_of_not_readable (by simp [readable, hv])
  · exact hostRead_of_not_readable (by simp [readable, hk])
  · rcases hf with rfl | rfl | ⟨o, rfl⟩ <;> exact hostRead_of_not_readable hv
  · rw [hostRead_of_readable (f := .alphaMode) hv, statusValue, ha, AlphaMode.code]
  · rw [hostRead_of_readable (f := .alphaMode) hv, statusValue, ha, AlphaMode.code]
  · cases s.dphase <;> simp [DPhase.code]
  · cases s.derr <;> simp [DecodeErr.code]
  · cases s.cphase <;> simp [CPhase.code]
  · cases s.cerr <;> simp [ConvertErr.code]

end Sys2Proof.Machine
end

section
/-! When the core waits for a byte or for the surface (O25): the read that no answer meets makes the whole step wait. -/

namespace Sys2Proof.Machine

/-! ## Reads that wait -/

/-- Several reads wait when one of them does and those before it give bytes. `P` says that a read ahead gives a byte. -/
theorem readMany_waiting {read : State → Port Byte} {P : State → Nat → Byte → Prop}
    (hP : ∀ s k v, P (consume 1 s) k v ↔ P s (k + 1) v)
    (hgot : ∀ s v, P s 0 v → read s = .got v (consume 1 s)) (hwait : ∀ s, Unanswered s 0 → read s = .waiting)
    {n k : Nat} {s : State} (hk : k < n) (hans : ∀ j, j < k → ∃ v, P s j v) (hun : Unanswered s k) :
    readMany read n s = .waiting := by
  induction n generalizing k s with
  | zero => omega
  | succ n ih =>
    cases k with
    | zero =>
      rw [readMany, hwait s hun]
      rfl
    | succ k =>
      obtain ⟨v, hv⟩ := hans 0 (by omega)
      have hrest : readMany read n (consume 1 s) = .waiting := by
        refine ih (k := k) (by omega) (fun j hj => ?_) (by rwa [unanswered_consume, Nat.add_comm])
        obtain ⟨w, hw⟩ := hans (j + 1) (by omega)
        exact ⟨w, (hP s j w).2 hw⟩
      rw [readMany, hgot s v hv]
      simp only [Port.andThen, hrest]

theorem readBytes_waiting {n k : Nat} {s : State} (hk : k < n) (hans : ∀ j, j < k → ∃ v, Supplies s j v)
    (hun : Unanswered s k) : readBytes n s = .waiting :=
  readMany_waiting (P := Supplies) (fun s k v => by simp [Nat.add_comm]) (fun _ _ => readByte_of_supplies)
    (fun _ => readByte_of_unanswered) hk hans hun

theorem readMagic_waiting {k : Nat} {s : State} (hk : k < 4) (hans : ∀ j, j < k → ∃ v, Answers s j v)
    (hun : Unanswered s k) : readMagic s = .waiting := by
  rw [readMagic, readMany_waiting (P := Answers) (fun s k v => by simp [Nat.add_comm])
    (fun _ _ => readMagicByte_of_answers) (fun _ => readMagicByte_of_unanswered) hk hans hun]
  rfl

theorem readMagicBytes_of_answers {s : State} {bs : List Byte} (h : ∀ k v, bs[k]? = some v → Answers s k v) :
    readMany readMagicByte bs.length s = .got bs (consume bs.length s) := by
  rcases readMagicBytes_cases bs.length s with ⟨bs', hl, hans, hr⟩ | ⟨k, hk, _, he, _⟩ | ⟨k, hk, _, hu, _⟩
  · have heq : bs' = bs := List.ext_getElem hl fun k h' hk => by
      have hsame := (hans k _ (List.getElem?_eq_getElem h')).symm.trans (h k _ (List.getElem?_eq_getElem hk))
      simpa using hsame
    rw [hr, heq]
  · cases he.symm.trans (h k _ (List.getElem?_eq_getElem hk))
  · cases hu.symm.trans (h k _ (List.getElem?_eq_getElem hk))

/-- The right magic is read and accepted (R102, R103). -/
theorem readMagic_of_magic {s : State} (h0 : Answers s 0 0x71) (h1 : Answers s 1 0x6F) (h2 : Answers s 2 0x69)
    (h3 : Answers s 3 0x66) : readMagic s = .got () (consume 4 s) := by
  have hmany : readMany readMagicByte 4 s = .got [0x71, 0x6F, 0x69, 0x66] (consume 4 s) := by
    refine readMagicBytes_of_answers (bs := [0x71, 0x6F, 0x69, 0x66]) fun k v hv => ?_
    match k, hv with
    | 0, rfl => exact h0
    | 1, rfl => exact h1
    | 2, rfl => exact h2
    | 3, rfl => exact h3
  rw [readMagic, hmany]
  rfl

theorem fetch_waiting_first {s : State} (hun : Unanswered s 0) : fetch s = .waiting := by
  rw [fetch, readByte_of_unanswered hun]
  rfl

theorem fetch_waiting_extra {s : State} {b1 : Byte} {k : Nat} (hb : Supplies s 0 b1) (hk : k < opcodeLength b1 - 1)
    (hans : ∀ j, j < k → ∃ v, Supplies s (j + 1) v) (hun : Unanswered s (k + 1)) : fetch s = .waiting := by
  have hextra : readBytes (opcodeLength b1 - 1) (consume 1 s) = .waiting :=
    readBytes_waiting hk (fun j hj => by simpa [Nat.add_comm] using hans j hj) (by simpa [Nat.add_comm] using hun)
  rw [fetch, readByte_of_supplies hb]
  simp only [Port.andThen, hextra]

/-! ## Steps that wait -/

theorem coreStep_waits_magic {s : State} {k : Nat} (hhdr : s.dphase = .hdr) (hk : k < 4)
    (hans : ∀ j, j < k → ∃ v, Answers s j v) (hun : Unanswered s k) : coreStep s = .fault .awaitingByte := by
  simp [coreStep, hhdr, headerStep, readMagic_waiting hk hans hun, Port.andThen]

theorem coreStep_waits_fields {s : State} {k : Nat} (hhdr : s.dphase = .hdr) (h0 : Answers s 0 0x71)
    (h1 : Answers s 1 0x6F) (h2 : Answers s 2 0x69) (h3 : Answers s 3 0x66) (hk : k < 10)
    (hans : ∀ j, j < k → ∃ v, Supplies s (4 + j) v) (hun : Unanswered s (4 + k)) :
    coreStep s = .fault .awaitingByte := by
  have hfields : readBytes 10 (consume 4 s) = .waiting :=
    readBytes_waiting hk (fun j hj => by simpa using hans j hj) (by simpa using hun)
  simp [coreStep, hhdr, headerStep, readMagic_of_magic h0 h1 h2 h3, readFields, hfields, Port.andThen]

theorem coreStep_waits_opcode {s : State} (hpix : s.dphase = .pix) (hrun : s.run = 0) (hf : fetch s = .waiting) :
    coreStep s = .fault .awaitingByte := by
  simp [coreStep, hpix, iteration, hrun, opcodeIteration, hf]

theorem coreStep_waits_alloc {s : State} (hhdr : s.dphase ≠ .hdr) (hpix : s.dphase ≠ .pix) (hc : s.cphase = .alloc)
    (hn : s.alloc = none) : coreStep s = .fault .awaitingAlloc := by
  cases hd : s.dphase <;> simp_all [coreStep, allocStep]

/-- Whatever moves the host has still to make, a core step that would hold waits. -/
theorem waits_of_coreStep {f : Fault} {s : State} (hf : f.isHold = true)
    (h : ∀ moves, coreStep { s with host := moves } = .fault f) : Waits f s := by
  refine ⟨h [], fun rest => ?_⟩
  show coreTurn { s with host := rest } = _
  rw [coreTurn, h rest]
  simp [hf]

/-- Settles O25: each of the five requests the core can make, left unanswered, makes its step wait. -/
theorem coreWaitsForAnswers : Obligations.CoreWaitsForAnswers := by
  refine ⟨fun s k hhdr hk hans hun => ?_, fun s k hhdr h0 h1 h2 h3 hk hans hun => ?_, fun s hpix hrun hun => ?_,
    fun s b1 k hpix hrun hb hk hans hun => ?_, fun s hhdr hpix hc hn => ?_⟩ <;>
    refine waits_of_coreStep rfl fun moves => ?_
  · exact coreStep_waits_magic hhdr hk hans hun
  · exact coreStep_waits_fields hhdr h0 h1 h2 h3 hk hans hun
  · exact coreStep_waits_opcode hpix hrun (fetch_waiting_first hun)
  · exact coreStep_waits_opcode hpix hrun (fetch_waiting_extra hb hk hans hun)
  · exact coreStep_waits_alloc hhdr hpix hc hn

end Sys2Proof.Machine
end

section
/-! The host's moves (O46). A pass is the core's own step because no step of the core reads the host's list: setting the
list commutes with every part of the step. -/

namespace Sys2Proof.Machine

/-- The state with the host's moves replaced. -/
def withHost (moves : List HostMove) (s : State) : State := { s with host := moves }

/-- What a read comes to, with the host's moves replaced. -/
def Port.withHost {α : Type} (moves : List HostMove) : Port α → Port α
  | .got v s => .got v (Machine.withHost moves s)
  | .raised s => .raised (Machine.withHost moves s)
  | .waiting => .waiting

/-- What a step comes to, with the host's moves replaced in a next state. -/
def outcomeWithHost (moves : List HostMove) :
    Host.Outcome State Fault Refusal → Host.Outcome State Fault Refusal
  | .next s => .next (withHost moves s)
  | .fault f => .fault f
  | .refused r => .refused r

section

variable (moves : List HostMove)

/-! ## Reads, with the list replaced -/

theorem Port.andThen_withHost {α β : Type} (x : Port α) {f : α → State → Port β}
    (hf : ∀ v s, f v (Machine.withHost moves s) = (f v s).withHost moves) :
    (x.withHost moves).andThen f = (x.andThen f).withHost moves := by
  cases x with
  | got v s => exact hf v s
  | raised s => rfl
  | waiting => rfl

theorem requestByte_withHost (s : State) : requestByte (withHost moves s) = (requestByte s).withHost moves := by
  unfold requestByte
  have hsrc : Source.answer (withHost moves s).src (withHost moves s).rdcnt = Source.answer s.src s.rdcnt := rfl
  rw [hsrc]
  cases Source.answer s.src s.rdcnt <;> rfl

theorem readByte_withHost (s : State) : readByte (withHost moves s) = (readByte s).withHost moves := by
  rw [readByte, requestByte_withHost]
  refine Port.andThen_withHost moves _ fun a t => ?_
  cases a with
  | byte v => rfl
  | exhausted =>
    have hcfg : (withHost moves t).cfg = t.cfg := rfl
    simp only [hcfg]
    split <;> rfl

theorem readMagicByte_withHost (s : State) : readMagicByte (withHost moves s) = (readMagicByte s).withHost moves := by
  rw [readMagicByte, requestByte_withHost]
  refine Port.andThen_withHost moves _ fun a t => ?_
  cases a <;> rfl

theorem readMany_withHost {read : State → Port Byte}
    (hread : ∀ s, read (withHost moves s) = (read s).withHost moves) (n : Nat) (s : State) :
    readMany read n (withHost moves s) = (readMany read n s).withHost moves := by
  induction n generalizing s with
  | zero => rfl
  | succ n ih =>
    rw [readMany, hread]
    refine Port.andThen_withHost moves _ fun b t => ?_
    rw [ih]
    exact Port.andThen_withHost moves _ fun bs u => rfl

theorem readBytes_withHost (n : Nat) (s : State) :
    readBytes n (withHost moves s) = (readBytes n s).withHost moves :=
  readMany_withHost moves (readByte_withHost moves) n s

theorem fetch_withHost (s : State) : fetch (withHost moves s) = (fetch s).withHost moves := by
  rw [fetch, readByte_withHost]
  refine Port.andThen_withHost moves _ fun b t => ?_
  rw [readBytes_withHost]
  exact Port.andThen_withHost moves _ fun bs u => rfl

theorem readMagic_withHost (s : State) : readMagic (withHost moves s) = (readMagic s).withHost moves := by
  rw [readMagic, readMany_withHost moves (readMagicByte_withHost moves)]
  refine Port.andThen_withHost moves _ fun bs t => ?_
  split <;> rfl

theorem readFields_withHost (s : State) : readFields (withHost moves s) = (readFields s).withHost moves := by
  rw [readFields, readBytes_withHost]
  exact Port.andThen_withHost moves _ fun bs t => rfl

/-! ## Steps, with the list replaced -/

theorem acceptHeader_withHost (s : State) : acceptHeader (withHost moves s) = withHost moves (acceptHeader s) := by
  by_cases hok : headerOk s.cfg.pixelsMax s.hdrW s.hdrH s.hdrCh s.hdrCs = true
  · rw [acceptHeader, acceptHeader, if_pos hok, if_pos (by exact hok)]
    rfl
  · rw [acceptHeader, acceptHeader, if_neg hok, if_neg (by exact hok)]
    rfl

theorem headerStep_withHost (s : State) :
    headerStep (withHost moves s) = outcomeWithHost moves (headerStep s) := by
  unfold headerStep
  rw [readMagic_withHost, Port.andThen_withHost moves _ fun _ t => readFields_withHost moves t]
  cases (readMagic s).andThen fun _ t => readFields t with
  | got v t => exact congrArg Host.Outcome.next (acceptHeader_withHost moves t)
  | raised t => rfl
  | waiting => rfl

theorem emitPx_withHost (s : State) : emitPx (withHost moves s) = withHost moves (emitPx s) := by
  by_cases hlast : s.pos + 1 = s.npix
  · rw [emitPx_last hlast, emitPx_last (by exact hlast)]
    rfl
  · rw [emitPx_more hlast, emitPx_more (by exact hlast)]
    rfl

theorem copyPixel_withHost (p : Pixel) (s : State) :
    copyPixel p (withHost moves s) = withHost moves (copyPixel p s) := by
  by_cases hlast : s.cpos + 1 = s.npix
  · rw [copyPixel_last p hlast, copyPixel_last p (by exact hlast)]
    rfl
  · rw [copyPixel_more p hlast, copyPixel_more p (by exact hlast)]
    rfl

theorem producePixel_withHost (p : Pixel) (s : State) :
    producePixel p (withHost moves s) = withHost moves (producePixel p s) :=
  emitPx_withHost moves (indexUpdate (setPx p s))

theorem exec_withHost (i : Instr) (s : State) : exec i (withHost moves s) = outcomeWithHost moves (exec i s) := by
  cases i with
  | run n => exact congrArg Host.Outcome.next (emitPx_withHost moves { s with run := n })
  | _ => exact congrArg Host.Outcome.next (producePixel_withHost moves _ s)

theorem opcodeIteration_withHost (s : State) :
    opcodeIteration (withHost moves s) = outcomeWithHost moves (opcodeIteration s) := by
  unfold opcodeIteration
  rw [fetch_withHost]
  cases fetch s with
  | got bytes t =>
    simp only [Port.withHost]
    cases decode bytes with
    | ok r => exact exec_withHost moves r.1 t
    | error e => rfl
  | raised t => rfl
  | waiting => rfl

theorem iteration_withHost (s : State) : iteration (withHost moves s) = outcomeWithHost moves (iteration s) := by
  by_cases hrun : s.run = 0
  · rw [iteration, iteration, if_pos hrun, if_pos (by exact hrun), opcodeIteration_withHost]
  · rw [iteration, iteration, if_neg hrun, if_neg (by exact hrun)]
    exact congrArg Host.Outcome.next (emitPx_withHost moves { s with run := s.run - 1 })

theorem allocStep_withHost (s : State) : allocStep (withHost moves s) = outcomeWithHost moves (allocStep s) := by
  unfold allocStep
  have halloc : (withHost moves s).alloc = s.alloc := rfl
  rw [halloc]
  split <;> rfl

theorem copyStep_withHost (s : State) : copyStep (withHost moves s) = outcomeWithHost moves (copyStep s) := by
  unfold copyStep
  have hslot : readSlot (withHost moves s).img (withHost moves s).cpos = readSlot s.img s.cpos := rfl
  rw [hslot]
  cases readSlot s.img s.cpos with
  | some p => exact congrArg Host.Outcome.next (copyPixel_withHost moves p s)
  | none => rfl

/-- No step of the core reads or writes the host's list of moves. -/
theorem coreStep_withHost (s : State) : coreStep (withHost moves s) = outcomeWithHost moves (coreStep s) := by
  unfold coreStep
  have hd : (withHost moves s).dphase = s.dphase := rfl
  have hc : (withHost moves s).cphase = s.cphase := rfl
  rw [hd, hc]
  split
  · exact headerStep_withHost moves s
  · exact iteration_withHost moves s
  · exact allocStep_withHost moves s
  · have hlt : ((withHost moves s).cpos < (withHost moves s).npix) = (s.cpos < s.npix) := rfl
    simp only [hlt]
    split
    · exact copyStep_withHost moves s
    · rfl
  · rfl

end

/-! ## The host's moves -/

/-- A pass: the core's step alone, or no change where it would hold (R20, R41). -/
theorem step_pass {s : State} {rest : List HostMove} (h : s.host = .pass :: rest) :
    step s = coreTurn (withHost rest s) := by
  rw [step, nextMove, h]
  rfl

theorem coreTurn_of_next {s t : State} (h : coreStep s = .next t) : coreTurn s = .next t := by
  rw [coreTurn, h]

theorem coreTurn_of_fault {s : State} {f : Fault} (h : coreStep s = .fault f) :
    coreTurn s = if f.isHold then .next s else .fault f := by
  rw [coreTurn, h]

/-- Settles O46: the supply and the answer by their own equations, the pass because the core's step commutes with the
list of moves. -/
theorem hostMovesAndTurns : Obligations.HostMovesAndTurns := by
  intro s rest
  refine ⟨fun src h => by rw [step, nextMove, h]; rfl, fun a h => by rw [step, nextMove, h]; rfl, fun h => ?_⟩
  have hcore := coreStep_withHost rest (withHost [] s)
  rw [step_pass h]
  refine ⟨fun t ht => ?_, fun f hf ht => ?_, fun ht => ?_⟩
  all_goals
    have hturn : coreStep (withHost [] s) = _ := ht
    rw [hturn] at hcore
  · exact coreTurn_of_next hcore
  · rw [coreTurn_of_fault (by exact hcore)]
    rcases hf with rfl | rfl | rfl <;> rfl
  · exact coreTurn_of_fault hcore

end Sys2Proof.Machine
end

section
/-! The opcode stream's encoding as numbers: fields, the ranges of the first byte, one decoding equation per opcode, and
the bytes of R83 as sums of their fields, in both directions. -/

namespace Sys2Proof

open Machine

/-! ## Bytes, fields and deltas -/

theorem toNat_byte {n : Nat} (h : n < 256) : (BitVec.ofNat 8 n).toNat = n :=
  (BitVec.toNat_ofNat n 8).trans (Nat.mod_eq_of_lt h)

theorem ofNat_eq_byte {b : Byte} {n : Nat} (h : n = b.toNat) : BitVec.ofNat 8 n = b := by
  rw [h, BitVec.ofNat_toNat, BitVec.setWidth_eq]

theorem field_eq (b : Byte) (lo width : Nat) : field b lo width = b.toNat / 2 ^ lo % 2 ^ width := by
  rw [field, Nat.shiftRight_eq_div_pow]

theorem field_lt (b : Byte) (lo width : Nat) : field b lo width < 2 ^ width :=
  Nat.mod_lt _ (Nat.two_pow_pos width)

theorem tag_eq (b1 : Byte) : tag b1 = b1.toNat / 64 := by
  have := b1.isLt
  rw [tag, field_eq]
  omega

/-- A delta is in its range exactly when it is a field less its bias (R77, R78). -/
theorem inRange_iff_exists_field {lo hi x : Int} {width bias : Nat} (hlo : lo = -bias)
    (hhi : hi = 2 ^ width - 1 - bias) : inRange lo hi x = true ↔ ∃ f : Nat, f < 2 ^ width ∧ x = f - bias := by
  subst hlo hhi
  have hpow : ((2 ^ width : Nat) : Int) = 2 ^ width := by norm_cast
  simp only [inRange, Bool.and_eq_true, decide_eq_true_eq]
  constructor
  · rintro ⟨h1, h2⟩
    exact ⟨(x + bias).toNat, by omega, by omega⟩
  · rintro ⟨f, hf, rfl⟩
    omega

/-! ## The first byte (R80) -/

theorem select_eq_of_range (b1 : Byte) : select b1 =
    if b1.toNat ≤ 0x3F then .index
    else if b1.toNat ≤ 0x7F then .diff
    else if b1.toNat ≤ 0xBF then .luma
    else if b1.toNat ≤ 0xFD then .run
    else if b1.toNat = 0xFE then .rgb
    else .rgba := by
  have := b1.isLt
  have hFE : b1 = 0xFE ↔ b1.toNat = 0xFE := BitVec.toNat_inj.symm
  have hFF : b1 = 0xFF ↔ b1.toNat = 0xFF := BitVec.toNat_inj.symm
  simp only [select, tag_eq, hFE, hFF]
  split_ifs <;> try rfl
  all_goals omega

theorem select_eq_index {b1 : Byte} : select b1 = .index ↔ b1.toNat ≤ 0x3F := by
  rw [select_eq_of_range]
  split_ifs <;> simp <;> omega

theorem select_eq_diff {b1 : Byte} : select b1 = .diff ↔ 0x40 ≤ b1.toNat ∧ b1.toNat ≤ 0x7F := by
  rw [select_eq_of_range]
  split_ifs <;> simp <;> omega

theorem select_eq_luma {b1 : Byte} : select b1 = .luma ↔ 0x80 ≤ b1.toNat ∧ b1.toNat ≤ 0xBF := by
  rw [select_eq_of_range]
  split_ifs <;> simp <;> omega

theorem select_eq_run {b1 : Byte} : select b1 = .run ↔ 0xC0 ≤ b1.toNat ∧ b1.toNat ≤ 0xFD := by
  rw [select_eq_of_range]
  split_ifs <;> simp <;> omega

theorem select_eq_rgb {b1 : Byte} : select b1 = .rgb ↔ b1.toNat = 0xFE := by
  rw [select_eq_of_range]
  split_ifs <;> simp <;> omega

theorem select_eq_rgba {b1 : Byte} : select b1 = .rgba ↔ b1.toNat = 0xFF := by
  have := b1.isLt
  rw [select_eq_of_range]
  split_ifs <;> simp <;> omega

/-! ## One decoding equation per opcode (R74 to R79) -/

theorem decode_of_select_rgb {b1 : Byte} (h : select b1 = .rgb) (r g b : Byte) (tail : List Byte) :
    decode (b1 :: r :: g :: b :: tail) = .ok (.rgb r g b, tail) := by
  simp only [decode, h]

theorem decode_of_select_rgba {b1 : Byte} (h : select b1 = .rgba) (r g b a : Byte) (tail : List Byte) :
    decode (b1 :: r :: g :: b :: a :: tail) = .ok (.rgba r g b a, tail) := by
  simp only [decode, h]

theorem decode_of_select_index {b1 : Byte} (h : select b1 = .index) (rest : List Byte) :
    decode (b1 :: rest) = .ok (.index (BitVec.ofNat 6 (field b1 0 6)), rest) := by
  simp only [decode, h]

theorem decode_of_select_diff {b1 : Byte} (h : select b1 = .diff) (rest : List Byte) :
    decode (b1 :: rest) = .ok (.diff (delta b1 4 2 2) (delta b1 2 2 2) (delta b1 0 2 2), rest) := by
  simp only [decode, h]

theorem decode_of_select_luma {b1 : Byte} (h : select b1 = .luma) (b2 : Byte) (tail : List Byte) :
    decode (b1 :: b2 :: tail) = .ok (.luma (delta b1 0 6 32) (delta b2 4 4 8) (delta b2 0 4 8), tail) := by
  simp only [decode, h]

theorem decode_of_select_run {b1 : Byte} (h : select b1 = .run) (rest : List Byte) :
    decode (b1 :: rest) = .ok (.run (BitVec.ofNat 6 (field b1 0 6)), rest) := by
  simp only [decode, h]

/-- With as many bytes as the first byte's length asks for, decoding gives an instruction of the selected opcode and
leaves the rest (R72, R81). -/
theorem decode_of_enough_bytes {b1 : Byte} {rest : List Byte} (h : opcodeLength b1 ≤ rest.length + 1) :
    ∃ i, decode (b1 :: rest) = .ok (i, rest.drop (opcodeLength b1 - 1)) ∧ i.opcode = select b1 := by
  rw [opcodeLength_select] at h ⊢
  cases hs : select b1 <;> simp only [hs] at h ⊢
  case rgb => match rest, h with | r :: g :: b :: tail, _ => exact ⟨_, decode_of_select_rgb hs r g b tail, rfl⟩
  case rgba =>
    match rest, h with | r :: g :: b :: a :: tail, _ => exact ⟨_, decode_of_select_rgba hs r g b a tail, rfl⟩
  case index => exact ⟨_, decode_of_select_index hs rest, rfl⟩
  case diff => exact ⟨_, decode_of_select_diff hs rest, rfl⟩
  case luma => match rest, h with | b2 :: tail, _ => exact ⟨_, decode_of_select_luma hs b2 tail, rfl⟩
  case run => exact ⟨_, decode_of_select_run hs rest, rfl⟩

/-- With fewer bytes than that, decoding misses extra bytes of the selected opcode (R81). -/
theorem decode_of_missing_bytes {b1 : Byte} {rest : List Byte} (h : rest.length + 1 < opcodeLength b1) :
    decode (b1 :: rest) = .error (.missingExtraBytes (select b1)) := by
  rw [opcodeLength_select] at h
  cases hs : select b1 <;> simp only [hs, decode] at h ⊢
  case rgb => match rest, h with | [], _ | [_], _ | [_, _], _ => rfl
  case rgba => match rest, h with | [], _ | [_], _ | [_, _], _ | [_, _, _], _ => rfl
  case luma => match rest, h with | [], _ => rfl
  all_goals omega

/-! ## The bytes of R83, as sums of their fields -/

/-- Fields that do not overlap are joined by a sum. -/
theorem or_eq_add_of_dvd {a b : Nat} (k : Nat) (ha : 2 ^ k ∣ a) (hb : b < 2 ^ k) : a ||| b = a + b := by
  obtain ⟨c, rfl⟩ := ha
  exact (Nat.two_pow_add_eq_or_of_lt hb c).symm

theorem encode_diff {r g b : Nat} (hr : r < 4) (hg : g < 4) (hb : b < 4) :
    encode (.diff (r - 2) (g - 2) (b - 2)) = [BitVec.ofNat 8 (0x40 + 16 * r + 4 * g + b)] := by
  have hfields : encode (.diff (r - 2) (g - 2) (b - 2)) = [BitVec.ofNat 8 (0x40 ||| r <<< 4 ||| g <<< 2 ||| b)] := by
    simp [encode, biased]
  have hred : 0x40 ||| r <<< 4 = 0x40 + r <<< 4 := or_eq_add_of_dvd 6 (by norm_num) (by omega)
  have hgreen : 0x40 + r <<< 4 ||| g <<< 2 = 0x40 + r <<< 4 + g <<< 2 := or_eq_add_of_dvd 4 (by omega) (by omega)
  rw [hfields, hred, hgreen, or_eq_add_of_dvd 2 (by omega) hb, Nat.shiftLeft_eq, Nat.shiftLeft_eq, Nat.mul_comm r,
    Nat.mul_comm g]

theorem encode_luma {g r b : Nat} (hg : g < 64) (hb : b < 16) :
    encode (.luma (g - 32) (r - 8) (b - 8)) = [BitVec.ofNat 8 (0x80 + g), BitVec.ofNat 8 (16 * r + b)] := by
  have hfields : encode (.luma (g - 32) (r - 8) (b - 8)) =
      [BitVec.ofNat 8 (0x80 ||| g), BitVec.ofNat 8 (r <<< 4 ||| b)] := by
    simp [encode, biased]
  rw [hfields, or_eq_add_of_dvd 6 (by norm_num) hg, or_eq_add_of_dvd 4 (by omega) hb, Nat.shiftLeft_eq, Nat.mul_comm r]

theorem encode_run (n : BitVec 6) : encode (.run n) = [BitVec.ofNat 8 (0xC0 + n.toNat)] := by
  rw [encode, or_eq_add_of_dvd 6 (by norm_num) n.isLt]

/-! ## Decoding the bytes of R83 -/

theorem decode_index_byte (i : BitVec 6) (rest : List Byte) :
    decode (BitVec.ofNat 8 i.toNat :: rest) = .ok (.index i, rest) := by
  have hi := i.isLt
  have hbyte := toNat_byte (n := i.toNat) (by omega)
  rw [decode_of_select_index (select_eq_index.2 (by omega)), field_eq, hbyte, Nat.pow_zero, Nat.div_one,
    Nat.mod_eq_of_lt hi, BitVec.ofNat_toNat, BitVec.setWidth_eq]

theorem decode_diff_byte {r g b : Nat} (hr : r < 4) (hg : g < 4) (hb : b < 4) (rest : List Byte) :
    decode (BitVec.ofNat 8 (0x40 + 16 * r + 4 * g + b) :: rest) = .ok (.diff (r - 2) (g - 2) (b - 2), rest) := by
  have hbyte := toNat_byte (n := 0x40 + 16 * r + 4 * g + b) (by omega)
  rw [decode_of_select_diff (select_eq_diff.2 (by omega))]
  simp only [delta, field_eq, hbyte]
  congr 3 <;> omega

theorem decode_luma_bytes {g r b : Nat} (hg : g < 64) (hr : r < 16) (hb : b < 16) (rest : List Byte) :
    decode (BitVec.ofNat 8 (0x80 + g) :: BitVec.ofNat 8 (16 * r + b) :: rest) =
      .ok (.luma (g - 32) (r - 8) (b - 8), rest) := by
  have hbyte1 := toNat_byte (n := 0x80 + g) (by omega)
  have hbyte2 := toNat_byte (n := 16 * r + b) (by omega)
  rw [decode_of_select_luma (select_eq_luma.2 (by omega))]
  simp only [delta, field_eq, hbyte1, hbyte2]
  congr 3 <;> omega

theorem decode_run_byte {n : Nat} (hn : n ≤ 61) (rest : List Byte) :
    decode (BitVec.ofNat 8 (0xC0 + n) :: rest) = .ok (.run (BitVec.ofNat 6 n), rest) := by
  have hbyte := toNat_byte (n := 0xC0 + n) (by omega)
  have hfield : field (BitVec.ofNat 8 (0xC0 + n)) 0 6 = n := by
    rw [field_eq, hbyte]
    omega
  rw [decode_of_select_run (select_eq_run.2 (by omega)), hfield]

/-! ## The assembler's constraints (R83) -/

theorem wellFormed_diff {dr dg db : Int} : wellFormed (.diff dr dg db) = true ↔
    ∃ r g b : Nat, (r < 4 ∧ g < 4 ∧ b < 4) ∧ dr = r - 2 ∧ dg = g - 2 ∧ db = b - 2 := by
  have hdelta : ∀ x, inRange (-2) 1 x = true ↔ ∃ f : Nat, f < 4 ∧ x = f - 2 := fun x =>
    inRange_iff_exists_field (width := 2) (bias := 2) rfl rfl
  simp only [wellFormed, Bool.and_eq_true, hdelta]
  constructor
  · rintro ⟨⟨⟨r, hr, rfl⟩, g, hg, rfl⟩, b, hb, rfl⟩
    exact ⟨r, g, b, ⟨hr, hg, hb⟩, rfl, rfl, rfl⟩
  · rintro ⟨r, g, b, ⟨hr, hg, hb⟩, rfl, rfl, rfl⟩
    exact ⟨⟨⟨r, hr, rfl⟩, g, hg, rfl⟩, b, hb, rfl⟩

theorem wellFormed_luma {vg drg dbg : Int} : wellFormed (.luma vg drg dbg) = true ↔
    ∃ g r b : Nat, (g < 64 ∧ r < 16 ∧ b < 16) ∧ vg = g - 32 ∧ drg = r - 8 ∧ dbg = b - 8 := by
  have hgreen : inRange (-32) 31 vg = true ↔ ∃ f : Nat, f < 64 ∧ vg = f - 32 :=
    inRange_iff_exists_field (width := 6) (bias := 32) rfl rfl
  have hother : ∀ x, inRange (-8) 7 x = true ↔ ∃ f : Nat, f < 16 ∧ x = f - 8 := fun x =>
    inRange_iff_exists_field (width := 4) (bias := 8) rfl rfl
  simp only [wellFormed, Bool.and_eq_true, hgreen, hother]
  constructor
  · rintro ⟨⟨⟨g, hg, rfl⟩, r, hr, rfl⟩, b, hb, rfl⟩
    exact ⟨g, r, b, ⟨hg, hr, hb⟩, rfl, rfl, rfl⟩
  · rintro ⟨g, r, b, ⟨hg, hr, hb⟩, rfl, rfl, rfl⟩
    exact ⟨⟨⟨g, hg, rfl⟩, r, hr, rfl⟩, b, hb, rfl⟩

/-! ## Assembling what a first byte decodes to (R85) -/

theorem encode_decoded_index {b1 : Byte} (h : select b1 = .index) :
    encode (.index (BitVec.ofNat 6 (field b1 0 6))) = [b1] := by
  have hrange := select_eq_index.1 h
  rw [encode, ofNat_eq_byte]
  rw [BitVec.toNat_ofNat, field_eq]
  omega

theorem encode_decoded_diff {b1 : Byte} (h : select b1 = .diff) :
    encode (.diff (delta b1 4 2 2) (delta b1 2 2 2) (delta b1 0 2 2)) = [b1] := by
  have hrange := select_eq_diff.1 h
  refine (encode_diff (field_lt b1 4 2) (field_lt b1 2 2) (field_lt b1 0 2)).trans ?_
  rw [ofNat_eq_byte]
  simp only [field_eq]
  omega

theorem encode_decoded_luma {b1 : Byte} (h : select b1 = .luma) (b2 : Byte) :
    encode (.luma (delta b1 0 6 32) (delta b2 4 4 8) (delta b2 0 4 8)) = [b1, b2] := by
  have hrange := select_eq_luma.1 h
  have hb2 := b2.isLt
  refine (encode_luma (field_lt b1 0 6) (field_lt b2 0 4)).trans ?_
  rw [ofNat_eq_byte (b := b1), ofNat_eq_byte (b := b2)]
  all_goals
    simp only [field_eq]
    omega

theorem encode_decoded_run {b1 : Byte} (h : select b1 = .run) :
    encode (.run (BitVec.ofNat 6 (field b1 0 6))) = [b1] := by
  have hrange := select_eq_run.1 h
  rw [encode_run, ofNat_eq_byte]
  rw [BitVec.toNat_ofNat, field_eq]
  omega

end Sys2Proof
end

section
/-! The encoding's obligations (O1 to O5). -/

namespace Sys2Proof

open Machine

/-- Settles O1: the assembler's bytes of each opcode decode to its operands. -/
theorem decodeOfEncode : Obligations.DecodeOfEncode := by
  intro i rest h
  cases i with
  | rgb r g b => exact decode_of_select_rgb rfl r g b rest
  | rgba r g b a => exact decode_of_select_rgba rfl r g b a rest
  | index i => exact decode_index_byte i rest
  | diff dr dg db =>
    obtain ⟨r, g, b, ⟨hr, hg, hb⟩, rfl, rfl, rfl⟩ := wellFormed_diff.1 h
    rw [encode_diff hr hg hb]
    exact decode_diff_byte hr hg hb rest
  | luma vg drg dbg =>
    obtain ⟨g, r, b, ⟨hg, hr, hb⟩, rfl, rfl, rfl⟩ := wellFormed_luma.1 h
    rw [encode_luma hg hb]
    exact decode_luma_bytes hg hr hb rest
  | run n =>
    have hn : n.toNat ≤ 61 := of_decide_eq_true h
    rw [encode_run, List.singleton_append, decode_run_byte hn, BitVec.ofNat_toNat, BitVec.setWidth_eq]

/-- Settles O2, by the selected opcode: the operands are fields of the bytes, and the fields make up the bytes. -/
theorem encodeOfDecode : Obligations.EncodeOfDecode := by
  intro bs rest i h
  cases bs with
  | nil => cases h
  | cons b1 tail =>
    cases hs : select b1 <;> simp only [decode, hs] at h
    case rgb =>
      obtain rfl : b1 = 0xFE := BitVec.eq_of_toNat_eq (select_eq_rgb.1 hs)
      split at h <;> cases h
      exact ⟨rfl, rfl⟩
    case rgba =>
      obtain rfl : b1 = 0xFF := BitVec.eq_of_toNat_eq (select_eq_rgba.1 hs)
      split at h <;> cases h
      exact ⟨rfl, rfl⟩
    case index =>
      cases h
      exact ⟨rfl, congrArg (· ++ rest) (encode_decoded_index hs)⟩
    case diff =>
      cases h
      exact ⟨wellFormed_diff.2 ⟨_, _, _, ⟨field_lt b1 4 2, field_lt b1 2 2, field_lt b1 0 2⟩, rfl, rfl, rfl⟩,
        congrArg (· ++ rest) (encode_decoded_diff hs)⟩
    case luma =>
      split at h <;> cases h
      next b2 =>
        exact ⟨
          wellFormed_luma.2 ⟨_, _, _, ⟨field_lt b1 0 6, field_lt b2 4 4, field_lt b2 0 4⟩, rfl, rfl, rfl⟩,
          congrArg (· ++ rest) (encode_decoded_luma hs b2)⟩
    case run =>
      cases h
      exact ⟨decide_eq_true (decode_run_le (decode_of_select_run hs rest)),
        congrArg (· ++ rest) (encode_decoded_run hs)⟩

/-- Settles O3, by the length of the selected opcode. -/
theorem decodeFailsOnlyForWantOfBytes : Obligations.DecodeFailsOnlyForWantOfBytes :=
  ⟨rfl, fun _ _ => ⟨decode_of_enough_bytes, decode_of_missing_bytes⟩⟩

/-- Settles O4: each row's range selects its opcode, and in that range the operand's field is the byte less the row's
first value. -/
theorem firstByteMap : Obligations.FirstByteMap := by
  intro b1
  refine ⟨fun h => ?_, fun h1 h2 => select_eq_diff.2 ⟨h1, h2⟩, fun h1 h2 => ?_, fun h1 h2 => ?_, select_eq_rgb.2,
    select_eq_rgba.2⟩
  · have hs := select_eq_index.2 h
    have hfield : field b1 0 6 = b1.toNat := by
      rw [field_eq]
      omega
    exact ⟨hs, fun rest => hfield ▸ decode_of_select_index hs rest⟩
  · have hs := select_eq_luma.2 ⟨h1, h2⟩
    have hdelta : delta b1 0 6 32 = b1.toNat - 0xA0 := by
      rw [delta, field_eq]
      omega
    exact ⟨hs, fun b2 rest => ⟨_, _, hdelta ▸ decode_of_select_luma hs b2 rest⟩⟩
  · have hs := select_eq_run.2 ⟨h1, h2⟩
    have hfield : field b1 0 6 = b1.toNat - 0xC0 := by
      rw [field_eq]
      omega
    exact ⟨hs, fun rest => hfield ▸ decode_of_select_run hs rest⟩

/-- Settles O5, by evaluating the decoder on the six words. -/
theorem specWordsDecode : Obligations.SpecWordsDecode := by
  unfold Obligations.SpecWordsDecode
  decide

end Sys2Proof
end

section
/-! What the header bytes reach (O44, O45): no read, no opcode and no repeat uses HDR_CH or HDR_CS, and the permuter uses
HDR_CH but not HDR_CS. Such a step from a state with these bytes mapped answers the mapped state, or, where it raises a
decode error and so draws them anew, the very same state. -/

namespace Sys2Proof.Machine

/-- The state with HDR_CH and HDR_CS each passed through a function. -/
def mapHeaderBytes (f g : Byte → Byte) (s : State) : State := { s with hdrCh := f s.hdrCh, hdrCs := g s.hdrCs }

/-- What a read comes to when the header bytes were mapped before it: they stay mapped, but an error draws them anew. -/
def Port.mapHeaderBytes {α : Type} (f g : Byte → Byte) : Port α → Port α
  | .got v s => .got v (Machine.mapHeaderBytes f g s)
  | .raised s => .raised s
  | .waiting => .waiting

section

variable (f g : Byte → Byte)

/-! ## Reads -/

theorem Port.andThen_mapHeaderBytes {α β : Type} (x : Port α) {k : α → State → Port β}
    (hk : ∀ v s, k v (Machine.mapHeaderBytes f g s) = (k v s).mapHeaderBytes f g) :
    (x.mapHeaderBytes f g).andThen k = (x.andThen k).mapHeaderBytes f g := by
  cases x with
  | got v s => exact hk v s
  | raised s => rfl
  | waiting => rfl

theorem readByte_mapHeaderBytes (s : State) :
    readByte (mapHeaderBytes f g s) = (readByte s).mapHeaderBytes f g := by
  rcases source_trichotomy s 0 with ⟨v, h⟩ | ⟨h, hl⟩ | h
  · rw [readByte_of_supplies h, readByte_of_supplies (by exact h)]
    rfl
  · rw [readByte_of_ends h hl, readByte_of_ends (by exact h) (by exact hl)]
    rfl
  · rw [readByte_of_unanswered h, readByte_of_unanswered (by exact h)]
    rfl

theorem readBytes_mapHeaderBytes (n : Nat) (s : State) :
    readBytes n (mapHeaderBytes f g s) = (readBytes n s).mapHeaderBytes f g := by
  induction n generalizing s with
  | zero => rfl
  | succ n ih =>
    rw [readBytes_succ, readByte_mapHeaderBytes]
    refine Port.andThen_mapHeaderBytes f g _ fun b t => ?_
    rw [ih]
    exact Port.andThen_mapHeaderBytes f g _ fun bs u => rfl

theorem fetch_mapHeaderBytes (s : State) : fetch (mapHeaderBytes f g s) = (fetch s).mapHeaderBytes f g := by
  rw [fetch, readByte_mapHeaderBytes]
  refine Port.andThen_mapHeaderBytes f g _ fun b t => ?_
  rw [readBytes_mapHeaderBytes]
  exact Port.andThen_mapHeaderBytes f g _ fun bs u => rfl

/-! ## Iterations -/

theorem emitPx_mapHeaderBytes (s : State) : emitPx (mapHeaderBytes f g s) = mapHeaderBytes f g (emitPx s) := by
  by_cases hlast : s.pos + 1 = s.npix
  · rw [emitPx_last hlast, emitPx_last (by exact hlast)]
    rfl
  · rw [emitPx_more hlast, emitPx_more (by exact hlast)]
    rfl

theorem producePixel_mapHeaderBytes (p : Pixel) (s : State) :
    producePixel p (mapHeaderBytes f g s) = mapHeaderBytes f g (producePixel p s) :=
  emitPx_mapHeaderBytes f g (indexUpdate (setPx p s))

theorem exec_mapHeaderBytes {i : Instr} {s t : State} (h : exec i s = .next t) :
    exec i (mapHeaderBytes f g s) = .next (mapHeaderBytes f g t) := by
  cases i with
  | run n =>
    cases h
    exact congrArg Host.Outcome.next (emitPx_mapHeaderBytes f g { s with run := n })
  | _ =>
    cases h
    exact congrArg Host.Outcome.next (producePixel_mapHeaderBytes f g _ s)

theorem opcodeIteration_mapHeaderBytes {s t : State} (h : opcodeIteration s = .next t) :
    ∃ t', opcodeIteration (mapHeaderBytes f g s) = .next t' ∧ (t' = mapHeaderBytes f g t ∨ t' = t) := by
  unfold opcodeIteration at h ⊢
  rw [fetch_mapHeaderBytes]
  cases hf : fetch s with
  | got bytes u =>
    simp only [hf, Port.mapHeaderBytes] at h ⊢
    cases hd : decode bytes with
    | ok r =>
      simp only [hd] at h ⊢
      exact ⟨_, exec_mapHeaderBytes f g h, .inl rfl⟩
    | error e => simp [hd] at h
  | raised u => exact ⟨u, rfl, .inr (by simpa [hf] using h)⟩
  | waiting => simp [hf] at h

theorem iteration_mapHeaderBytes {s t : State} (h : iteration s = .next t) :
    ∃ t', iteration (mapHeaderBytes f g s) = .next t' ∧ (t' = mapHeaderBytes f g t ∨ t' = t) := by
  by_cases hrun : s.run = 0
  · rw [iteration, if_pos hrun] at h
    rw [iteration, if_pos (by exact hrun)]
    exact opcodeIteration_mapHeaderBytes f g h
  · rw [iteration, if_neg hrun] at h
    rw [iteration, if_neg (by exact hrun)]
    cases h
    exact ⟨_, congrArg Host.Outcome.next (emitPx_mapHeaderBytes f g { s with run := s.run - 1 }), .inl rfl⟩

/-! ## The permuter's steps, which read HDR_CH for the alpha mode (R165) -/

theorem allocStep_mapHeaderBytes {s t : State} (h : allocStep s = .next t) :
    allocStep (mapHeaderBytes f g s) = .next (mapHeaderBytes f g t) := by
  rcases allocStep_next h with ⟨base, ha, rfl⟩ | ⟨ha, rfl⟩
  · have ha' : (mapHeaderBytes f g s).alloc = some (.granted base) := ha
    rw [allocStep, ha']
    rfl
  · have ha' : (mapHeaderBytes f g s).alloc = some .refused := ha
    rw [allocStep, ha']
    rfl

theorem copyPixel_mapHeaderBytes (p : Pixel) (s : State) :
    copyPixel p (mapHeaderBytes id g s) = mapHeaderBytes id g (copyPixel p s) := by
  by_cases hlast : s.cpos + 1 = s.npix
  · rw [copyPixel_last p hlast, copyPixel_last p (by exact hlast)]
    rfl
  · rw [copyPixel_more p hlast, copyPixel_more p (by exact hlast)]
    rfl

theorem copyStep_mapHeaderBytes {s t : State} (h : copyStep s = .next t) :
    copyStep (mapHeaderBytes id g s) = .next (mapHeaderBytes id g t) := by
  obtain ⟨p, hp, rfl⟩ := copyStep_next h
  have hp' : readSlot (mapHeaderBytes id g s).img (mapHeaderBytes id g s).cpos = some p := hp
  rw [copyStep, hp']
  exact congrArg Host.Outcome.next (copyPixel_mapHeaderBytes g p s)

end

/-! ## Steps -/

theorem step_of_no_move {s : State} (h : s.host = []) : step s = coreStep s := by
  rw [step, nextMove, h]

theorem coreStep_of_pix {s : State} (h : s.dphase = .pix) : coreStep s = iteration s := by
  simp [coreStep, h]

theorem coreStep_of_alloc {s : State} (hh : s.dphase ≠ .hdr) (hp : s.dphase ≠ .pix) (hc : s.cphase = .alloc) :
    coreStep s = allocStep s := by
  cases hd : s.dphase <;> simp_all [coreStep]

theorem coreStep_of_copy {s : State} (hh : s.dphase ≠ .hdr) (hp : s.dphase ≠ .pix) (hc : s.cphase = .copy)
    (hlt : s.cpos < s.npix) : coreStep s = copyStep s := by
  cases hd : s.dphase <;> simp_all [coreStep]

/-- An iteration, whatever becomes of the header bytes before it. -/
theorem coreStep_mapHeaderBytes_of_pix (f g : Byte → Byte) {s t : State} (hpix : s.dphase = .pix)
    (h : coreStep s = .next t) :
    ∃ t', coreStep (mapHeaderBytes f g s) = .next t' ∧ (t' = mapHeaderBytes f g t ∨ t' = t) := by
  rw [coreStep_of_pix hpix] at h
  rw [coreStep_of_pix (by exact hpix)]
  exact iteration_mapHeaderBytes f g h

/-- Any step but the header step, whatever becomes of HDR_CS before it. -/
theorem coreStep_mapHeaderBytes_of_not_hdr (g : Byte → Byte) {s t : State} (hhdr : s.dphase ≠ .hdr)
    (h : coreStep s = .next t) :
    ∃ t', coreStep (mapHeaderBytes id g s) = .next t' ∧ (t' = mapHeaderBytes id g t ∨ t' = t) := by
  rcases coreStep_next h with ⟨hh, _⟩ | ⟨hpix, _⟩ | ⟨hpix, _⟩ | ⟨_, hpix, hc, hs⟩ | ⟨_, hpix, hc, hlt, hs⟩
  · exact absurd hh hhdr
  · exact coreStep_mapHeaderBytes_of_pix id g hpix h
  · exact coreStep_mapHeaderBytes_of_pix id g hpix h
  · rw [coreStep_of_alloc (by exact hhdr) (by exact hpix) (by exact hc)]
    exact ⟨_, allocStep_mapHeaderBytes id g hs, .inl rfl⟩
  · rw [coreStep_of_copy (by exact hhdr) (by exact hpix) (by exact hc) (by exact hlt)]
    exact ⟨_, copyStep_mapHeaderBytes g hs, .inl rfl⟩

/-- Settles O44: the iteration from the state with the other HDR_CH answers the same state with that HDR_CH, or after an
error the very same state. -/
theorem channelCountDoesNotReachThePixels : Obligations.ChannelCountDoesNotReachThePixels := by
  intro s t c hhost hpix h
  rw [step_of_no_move hhost] at h
  obtain ⟨t', h', ht'⟩ := coreStep_mapHeaderBytes_of_pix (fun _ => c) id hpix h
  refine ⟨t', (step_of_no_move (by exact hhost)).trans h', ?_⟩
  rcases ht' with rfl | rfl
  · rfl
  · rfl

/-- Settles O45: the step from the state with the other HDR_CS answers the same state with that HDR_CS, or after an
error the very same state. -/
theorem colourSpaceIsOnlyRecorded : Obligations.ColourSpaceIsOnlyRecorded := by
  intro s t c hhost hhdr h
  rw [step_of_no_move hhost] at h
  obtain ⟨t', h', ht'⟩ := coreStep_mapHeaderBytes_of_not_hdr (fun _ => c) hhdr h
  refine ⟨t', (step_of_no_move (by exact hhost)).trans h', ?_⟩
  rcases ht' with rfl | rfl
  · rfl
  · rfl

end Sys2Proof.Machine
end

section
/-! What the header checks admit (O19) and START_DECODE (O27). -/

namespace Sys2Proof.Machine

/-- The guard `h < pixelsMax / w` says that one more row than the image has still fits (R106). -/
theorem lt_div_iff_mul_succ_le {w h p : Nat} (hw : w ≠ 0) : h < p / w ↔ w * (h + 1) ≤ p := by
  rw [← Nat.succ_le_iff, Nat.le_div_iff_mul_le (Nat.pos_of_ne_zero hw), Nat.mul_comm]

theorem headerOk_iff {p : Nat} {w h : Word32} {ch cs : Byte} : headerOk p w h ch cs = true ↔
    w.toNat ≠ 0 ∧ h.toNat ≠ 0 ∧ (ch = 3 ∨ ch = 4) ∧ (cs = 0 ∨ cs = 1) ∧ w.toNat * (h.toNat + 1) ≤ p := by
  simp only [headerOk, Bool.and_eq_true, Bool.or_eq_true, decide_eq_true_eq, and_assoc]
  exact and_congr_right fun hw => by rw [lt_div_iff_mul_succ_le hw]

/-- Settles O19: the guard's product, with one row more than the height, bounds the product and each factor. -/
theorem guardAdmits : Obligations.GuardAdmits := by
  intro p w h ch cs
  refine ⟨headerOk_iff, fun hok => ?_⟩
  obtain ⟨hw, hh, -, -, hguard⟩ := headerOk_iff.1 hok
  have htwice : w.toNat * 2 ≤ w.toNat * (h.toNat + 1) := Nat.mul_le_mul_left _ (by omega)
  have hrows : h.toNat + 1 ≤ w.toNat * (h.toNat + 1) := Nat.le_mul_of_pos_left _ (by omega)
  exact ⟨hguard, (headerOk_pixels hok).1, by omega, by omega⟩

theorem startDecodeEnabled_iff {s : State} : startDecodeEnabled s = true ↔
    (s.dphase = .idle ∨ s.dphase = .ok ∨ s.dphase = .err) ∧ s.cphase ≠ .alloc ∧ s.cphase ≠ .copy := by
  simp [startDecodeEnabled, or_assoc]

theorem startDecodeEnabled_eq_false {s : State}
    (h : s.dphase = .hdr ∨ s.dphase = .pix ∨ s.cphase = .alloc ∨ s.cphase = .copy) : startDecodeEnabled s = false := by
  rcases h with h | h | h | h <;> simp [startDecodeEnabled, h]

theorem step_startDecode {s : State} {rest : List HostMove} (hhost : s.host = .command .startDecode :: rest) :
    step s = if startDecodeEnabled s then .next (startDecode { s with host := rest })
      else .refused (.commandNotEnabled .startDecode) := by
  rw [step, nextMove, hhost]
  rfl

/-- Settles O27, by the command's equation in the two cases of its enabling condition. -/
theorem startDecodeCommand : Obligations.StartDecodeCommand := by
  intro s rest hhost
  refine ⟨fun hd ha hc => ⟨startDecode { s with host := rest }, ?_, ?_⟩, fun hbusy => ?_⟩
  · rw [step_startDecode hhost, if_pos (startDecodeEnabled_iff.2 ⟨hd, ha, hc⟩)]
  · simp [KeepsConvertSide]
  · rw [step_startDecode hhost, startDecodeEnabled_eq_false hbusy]
    rfl

end Sys2Proof.Machine
end

section
/-! The index hash (O16) and the cache invariant (O34). An opcode writes its new PX into its own entry or keeps PX and
IDX, and every other step that leaves the decode engine running keeps them. -/

namespace Sys2Proof.Machine

/-! ## The index hash (R121) -/

theorem pixelHash_toNat (p : Pixel) :
    (pixelHash p).toNat = (3 * p.r.toNat + 5 * p.g.toNat + 7 * p.b.toNat + 11 * p.a.toNat) % 64 := by
  rw [pixelHash, BitVec.toNat_ofNat, Nat.mod_mod]

/-- Settles O16: each channel is at most 255, and 64 divides every power of two from `2 ^ 6` on. -/
theorem hashOfPixel : Obligations.HashOfPixel := by
  intro p
  have hr := p.r.isLt
  have hg := p.g.isLt
  have hb := p.b.isLt
  have ha := p.a.isLt
  refine ⟨pixelHash_toNat p, by omega, fun k hk => ?_⟩
  rw [pixelHash_toNat]
  exact Nat.mod_mod_of_dvd _ (pow_dvd_pow 2 hk)

/-! ## What keeps the cache invariant -/

/-- The invariant says nothing of a decode engine at rest. -/
theorem cacheInv_of_rest {s : State} (hhdr : s.dphase ≠ .hdr) (hpix : s.dphase ≠ .pix) : CacheInv s where
  fresh h := absurd h hhdr
  entries h := absurd h hpix
  current h := absurd h hpix

theorem CacheInv.of_kept {s t : State} (hs : CacheInv s) (hd : t.dphase = s.dphase) (hpx : t.px = s.px)
    (hidx : t.idx = s.idx) : CacheInv t where
  fresh := by simpa only [hd, hpx, hidx] using hs.fresh
  entries := by simpa only [hd, hidx] using hs.entries
  current := by simpa only [hd, hpx, hidx] using hs.current

/-- The index update writes PX under its own hash: each entry keeps its property, and PX stands in its own (R122). -/
theorem CacheInv.of_indexed {s t : State} (hs : CacheInv s) (hpix : s.dphase = .pix) (hd : t.dphase = s.dphase)
    (hidx : Indexed s t) : CacheInv t where
  fresh h := by simp [hd, hpix] at h
  entries _ i := by
    rw [hidx i]
    split
    · exact .inr (Eq.symm ‹_›)
    · exact hs.entries hpix i
  current _ := .inl ((hidx _).trans (if_pos rfl))

/-! ## Iterations -/

/-- An emission ends the decode or leaves DPHASE alone (R134). -/
theorem Emitted.dphase_eq {s t : State} (h : Emitted s t) : t.dphase = .ok ∨ t.dphase = s.dphase := by
  obtain ⟨-, -, -, hlast, hmore⟩ := h
  by_cases hp : s.pos + 1 = s.npix
  · exact .inl (hlast hp).2
  · exact .inr (hmore hp).2

/-- Every opcode updates the index with its new PX, but RUN, which keeps PX and the index (R122, R128). -/
theorem exec_indexes_or_keeps (i : Instr) (s : State) :
    ∃ t, exec i s = .next t ∧ Emitted s t ∧ (Indexed s t ∨ (t.px = s.px ∧ t.idx = s.idx)) := by
  cases i with
  | run n =>
    obtain ⟨-, hpx, hidx, -⟩ := emitPx_frame { s with run := n }
    exact ⟨_, rfl, emitPx_emitted _, .inr ⟨hpx, hidx⟩⟩
  | _ =>
    obtain ⟨-, hidx, hemit, -⟩ := producePixel_produces _ s
    exact ⟨_, rfl, hemit, .inl hidx⟩

/-- An emission keeps the invariant when the index was updated with the new PX, or PX and the index were kept. -/
theorem CacheInv.of_emitted {s t : State} (hs : CacheInv s) (hpix : s.dphase = .pix) (he : Emitted s t)
    (hidx : Indexed s t ∨ (t.px = s.px ∧ t.idx = s.idx)) : CacheInv t := by
  rcases he.dphase_eq with hok | hd
  · exact cacheInv_of_rest (by simp [hok]) (by simp [hok])
  · rcases hidx with hidx | ⟨hpx, hidx⟩
    · exact hs.of_indexed hpix hd hidx
    · exact hs.of_kept hd hpx hidx

theorem CacheInv.opcodeIteration {s t : State} (hs : CacheInv s) (hpix : s.dphase = .pix)
    (h : opcodeIteration s = .next t) : CacheInv t := by
  rcases opcodeIteration_cases s with ⟨b1, _, i, _, _, hn⟩ | ⟨k, _, _, _, hn⟩ | ⟨k, _, _, hn⟩
  · obtain ⟨u, hu, he, hidx⟩ := exec_indexes_or_keeps i (consume (opcodeLength b1) s)
    cases (hn.trans hu).symm.trans h
    exact hs.of_emitted hpix he hidx
  · cases hn.symm.trans h
    exact cacheInv_of_rest (by simp) (by simp)
  · cases hn.symm.trans h

theorem CacheInv.repeatPixel {s : State} (hs : CacheInv s) (hpix : s.dphase = .pix) : CacheInv (repeatPixel s) := by
  obtain ⟨-, hpx, hidx, -⟩ := emitPx_frame { s with run := s.run - 1 }
  exact hs.of_emitted hpix (emitPx_emitted { s with run := s.run - 1 }) (.inr ⟨hpx, hidx⟩)

/-! ## The other steps -/

theorem KeepsDecodeSide.dphase_eq {s t : State} (h : KeepsDecodeSide s t) : t.dphase = s.dphase := by
  obtain ⟨-, -, -, -, -, -, -, -, -, -, -, hd, -⟩ := h
  exact hd

/-- An accepted header starts the pixel loop with the decode-start values (R100, R107). -/
theorem CacheInv.acceptHeader {s : State} (hs : CacheInv s) (hhdr : s.dphase = .hdr) :
    CacheInv (acceptHeader s) := by
  unfold Machine.acceptHeader
  split
  · obtain ⟨hpx, hidx⟩ := hs.fresh hhdr
    exact ⟨by simp, fun _ i => .inl (hidx i), fun _ => .inr ⟨hpx, hidx⟩⟩
  · exact cacheInv_of_rest (by simp) (by simp)

theorem CacheInv.headerStep {s t : State} (hs : CacheInv s) (hhdr : s.dphase = .hdr) (h : headerStep s = .next t) :
    CacheInv t := by
  rcases headerStep_cases s with ⟨_, fs, _, _, _, _, _, hn⟩ | ⟨n, _, hn⟩ | ⟨n, _, _, hn⟩ | hn <;> cases hn.symm.trans h
  · have hload : CacheInv (loadFields fs (consume 14 s)) := hs.of_kept rfl rfl rfl
    exact hload.acceptHeader hhdr
  · exact cacheInv_of_rest (by simp) (by simp)
  · exact cacheInv_of_rest (by simp) (by simp)

theorem CacheInv.coreStep {s t : State} (hs : CacheInv s) (h : coreStep s = .next t) : CacheInv t := by
  rcases coreStep_next h with ⟨hhdr, hn⟩ | ⟨hpix, _, hn⟩ | ⟨hpix, _, rfl⟩ | ⟨hhdr, hpix, _, hn⟩ | ⟨hhdr, hpix, _, _, hn⟩
  · exact hs.headerStep hhdr hn
  · exact hs.opcodeIteration hpix hn
  · exact hs.repeatPixel hpix
  · have hd := (allocStep_keepsDecodeSide hn).dphase_eq
    exact cacheInv_of_rest (hd ▸ hhdr) (hd ▸ hpix)
  · have hd := (copyStep_keepsDecodeSide hn).dphase_eq
    exact cacheInv_of_rest (hd ▸ hhdr) (hd ▸ hpix)

theorem cacheInv_startDecode (s : State) : CacheInv (startDecode s) where
  fresh _ := ⟨rfl, idxRead_replicate Pixel.zero⟩
  entries h := by simp at h
  current h := by simp at h

/-- Settles O34: the core's own step keeps the invariant, START_DECODE makes it, RESET leaves the decode engine at rest,
and nothing else touches PX, IDX or DPHASE. -/
theorem stepKeepsCacheInvariant : Obligations.StepKeepsCacheInvariant := by
  intro s t hs h
  rcases step_next_action h with ⟨moves, hc⟩ | ⟨moves, src, alloc, rfl⟩ | ⟨rest, ⟨_, rfl⟩ | ⟨_, _, rfl⟩ | ⟨_, _, rfl⟩⟩
  · have hmoves : CacheInv { s with host := moves } := hs.of_kept rfl rfl rfl
    exact hmoves.coreStep hc
  · exact hs.of_kept rfl rfl rfl
  · exact cacheInv_of_rest (by simp) (by simp)
  · exact cacheInv_startDecode { s with host := rest }
  · exact hs.of_kept rfl rfl rfl

end Sys2Proof.Machine
end

section
/-! The six opcodes (O6 to O12): what the bytes ahead make the next step do, which missing byte makes it fail, and the
new value of each lane. -/

namespace Sys2Proof.Machine

/-! ## The next step, by the bytes ahead -/

theorem step_of_opcodeTurn {s : State} (h : OpcodeTurn s) : step s = opcodeIteration s := by
  obtain ⟨hhost, hpix, hrun⟩ := h
  rw [step_of_no_move hhost, coreStep_of_pix hpix, iteration, if_pos hrun]

theorem fetch_of_supplies {s : State} {b1 : Byte} {extra : List Byte} (hs : SuppliesAll s (b1 :: extra))
    (hl : extra.length = opcodeLength b1 - 1) : fetch s = .got (b1 :: extra) (consume (opcodeLength b1) s) := by
  obtain ⟨hb, hextra⟩ := suppliesAll_cons.1 hs
  have hlen : 1 + extra.length = opcodeLength b1 := by
    have := opcodeLength_pos b1
    omega
  rw [fetch, readByte_of_supplies hb, Port.andThen, ← hl, readBytes_of_supplies hextra, Port.andThen, consume_consume,
    hlen]

/-- Settles O6: the fetch reads exactly the bytes supplied, and they decode to the instruction. -/
theorem stepRunsDecodedInstruction : Obligations.StepRunsDecodedInstruction := by
  intro s b1 extra i hturn hs hl hdec
  rw [step_of_opcodeTurn hturn, opcodeIteration, fetch_of_supplies hs hl]
  simp only [hdec]

/-- A first byte that is a whole opcode needs no other. -/
theorem step_of_single_byte {s : State} {b1 : Byte} {i : Instr} (hturn : OpcodeTurn s) (h0 : Supplies s 0 b1)
    (hl : opcodeLength b1 = 1) (hdec : decode [b1] = .ok (i, [])) : step s = exec i (consume 1 s) := by
  have hs : SuppliesAll s [b1] := suppliesAll_cons.2 ⟨h0, suppliesAll_nil _⟩
  rw [stepRunsDecodedInstruction s b1 [] i hturn hs (by simp [hl]) hdec, hl]

/-- `n` reads, of which the first `k` give a byte and the next one ends in strict mode (R52). -/
theorem readBytes_of_ends {n k : Nat} {s : State} (hk : k < n) (hans : ∀ j, j < k → ∃ v, Supplies s j v)
    (hend : Ends s k) (hl : s.cfg.lenientRead = false) :
    readBytes n s = .raised (raiseDecode .streamExhausted (consume (k + 1) s)) := by
  induction n generalizing k s with
  | zero => omega
  | succ n ih =>
    cases k with
    | zero =>
      rw [readBytes_succ, readByte_of_ends hend hl]
      rfl
    | succ k =>
      obtain ⟨v, hv⟩ := hans 0 (by omega)
      have hrest := ih (s := consume 1 s) (k := k) (by omega)
        (fun j hj => by simpa [Nat.add_comm] using hans (j + 1) (by omega)) (by simpa [Nat.add_comm] using hend) hl
      rw [readBytes_succ, readByte_of_supplies hv, Port.andThen, hrest, Port.andThen, consume_consume, Nat.add_comm 1]

/-- A missing extra byte raises StreamExhausted at its own request (R183). -/
theorem step_of_missing_extra_byte {s : State} {b1 : Byte} {k : Nat} (hturn : OpcodeTurn s)
    (hl : s.cfg.lenientRead = false) (h0 : Supplies s 0 b1) (hk : k < opcodeLength b1 - 1)
    (hans : ∀ j, j < k → ∃ v, Supplies s (j + 1) v) (hend : Ends s (k + 1)) :
    ∃ t, step s = .next t ∧ DecodeFailed s t .streamExhausted (k + 2) := by
  have hextra : readBytes (opcodeLength b1 - 1) (consume 1 s) = _ :=
    readBytes_of_ends hk (fun j hj => by simpa [Nat.add_comm] using hans j hj) (by simpa [Nat.add_comm] using hend) hl
  have hfetch : fetch s = .raised (raiseDecode .streamExhausted (consume (k + 2) s)) := by
    rw [fetch, readByte_of_supplies h0, Port.andThen, hextra, Port.andThen, consume_consume, Nat.add_left_comm]
  exact ⟨_, by rw [step_of_opcodeTurn hturn, opcodeIteration, hfetch], raiseDecode_failed _ s _⟩

/-! ## Lanes (R132) -/

theorem addLane_toNat (old : Byte) (d : Int) : ((addLane old d).toNat : Int) = (old.toNat + d) % 256 := by
  rw [addLane, mod256, BitVec.toNat_ofInt, Int.toNat_of_nonneg (by omega)]
  rfl

/-- The lanes of a pixel produced from the old one by three deltas. -/
theorem Produces.lanes {s t : State} {dr dg db : Int} (h : Produces s t (addDeltas s.px dr dg db)) :
    Produces s t t.px ∧ (t.px.r.toNat : Int) = (s.px.r.toNat + dr) % 256 ∧
      (t.px.g.toNat : Int) = (s.px.g.toNat + dg) % 256 ∧ (t.px.b.toNat : Int) = (s.px.b.toNat + db) % 256 ∧
      t.px.a = s.px.a := by
  have hpx : t.px = addDeltas s.px dr dg db := h.1
  rw [hpx]
  exact ⟨h, addLane_toNat _ _, addLane_toNat _ _, addLane_toNat _ _, rfl⟩

/-! ## The opcodes -/

/-- Settles O7: its bytes decode to it, its pixel is produced, and its length is four. -/
theorem rgbOpcode : Obligations.RgbOpcode := by
  refine ⟨decode_of_select_rgb rfl, fun r g b s => ⟨_, rfl, producePixel_produces _ s⟩,
    fun s r g b hturn h0 h1 h2 h3 => ?_, fun s k hturn hl h0 hk => step_of_missing_extra_byte hturn hl h0 hk⟩
  have hs : SuppliesAll s [0xFE, r, g, b] := by
    simp only [suppliesAll_cons, supplies_consume, consume_consume]
    exact ⟨h0, h1, h2, h3, suppliesAll_nil _⟩
  exact stepRunsDecodedInstruction s 0xFE [r, g, b] _ hturn hs rfl (decode_of_select_rgb rfl r g b [])

/-- Settles O8: its bytes decode to it, its pixel is produced, and its length is five. -/
theorem rgbaOpcode : Obligations.RgbaOpcode := by
  refine ⟨decode_of_select_rgba rfl, fun r g b a s => ⟨_, rfl, producePixel_produces _ s⟩,
    fun s r g b a hturn h0 h1 h2 h3 h4 => ?_, fun s k hturn hl h0 hk => step_of_missing_extra_byte hturn hl h0 hk⟩
  have hs : SuppliesAll s [0xFF, r, g, b, a] := by
    simp only [suppliesAll_cons, supplies_consume, consume_consume]
    exact ⟨h0, h1, h2, h3, h4, suppliesAll_nil _⟩
  exact stepRunsDecodedInstruction s 0xFF [r, g, b, a] _ hturn hs rfl (decode_of_select_rgba rfl r g b a [])

theorem step_of_index_byte {s : State} (i : BitVec 6) (hturn : OpcodeTurn s)
    (h0 : Supplies s 0 (BitVec.ofNat 8 i.toNat)) : step s = exec (.index i) (consume 1 s) := by
  have hi := i.isLt
  have hsel : select (BitVec.ofNat 8 i.toNat) = .index := select_eq_index.2 (by rw [toNat_byte] <;> omega)
  exact step_of_single_byte hturn h0 (by rw [opcodeLength_select, hsel]) (decode_index_byte i [])

/-- Settles O9: its byte decodes to it, the pixel produced is the entry as it was, and its length is one. -/
theorem indexOpcode : Obligations.IndexOpcode :=
  ⟨decode_index_byte, fun _ s => ⟨_, rfl, producePixel_produces _ s⟩, fun _ i hturn h0 => step_of_index_byte i hturn h0⟩

/-- Settles O10: its byte decodes to it, its three lanes move, and its length is one. -/
theorem diffOpcode : Obligations.DiffOpcode := by
  refine ⟨fun r g b rest hr hg hb => decode_diff_byte hr hg hb rest,
    fun dr dg db s => ⟨_, rfl, (producePixel_produces _ s).lanes⟩, fun s r g b hr hg hb hturn h0 => ?_⟩
  have hsel : select (BitVec.ofNat 8 (0x40 + 16 * r + 4 * g + b)) = .diff :=
    select_eq_diff.2 (by rw [toNat_byte] <;> omega)
  exact step_of_single_byte hturn h0 (by rw [opcodeLength_select, hsel]) (decode_diff_byte hr hg hb [])

theorem opcodeLength_luma_byte {g : Nat} (hg : g < 64) : opcodeLength (BitVec.ofNat 8 (0x80 + g)) = 2 := by
  have hsel : select (BitVec.ofNat 8 (0x80 + g)) = .luma := select_eq_luma.2 (by rw [toNat_byte] <;> omega)
  rw [opcodeLength_select, hsel]

/-- Settles O11: its bytes decode to it, its three lanes move, and its length is two. -/
theorem lumaOpcode : Obligations.LumaOpcode := by
  refine ⟨fun g r b rest hg hr hb => decode_luma_bytes hg hr hb rest, fun vg drg dbg s => ?_,
    fun s g r b hg hr hb hturn h0 h1 => ?_, fun s g hg hturn hl h0 hend => ?_⟩
  · obtain ⟨hprod, hr, hg, hb, ha⟩ := (producePixel_produces (addDeltas s.px (vg + drg) vg (vg + dbg)) s).lanes
    exact ⟨_, rfl, hprod, hg, hr, hb, ha⟩
  · have hlen := opcodeLength_luma_byte hg
    have hs : SuppliesAll s [BitVec.ofNat 8 (0x80 + g), BitVec.ofNat 8 (16 * r + b)] := by
      simp only [suppliesAll_cons, supplies_consume]
      exact ⟨h0, h1, suppliesAll_nil _⟩
    rw [stepRunsDecodedInstruction s _ _ _ hturn hs (by rw [hlen]; rfl) (decode_luma_bytes hg hr hb []), hlen]
  · exact step_of_missing_extra_byte (k := 0) hturn hl h0 (by rw [opcodeLength_luma_byte hg]; omega)
      (fun j hj => by omega) hend

/-- The effect of RUN (R128) and of a repeat (R129): RUN alone is written, and PX is emitted. -/
theorem emitPx_withRun {s t : State} {n : BitVec 6} (h : t = emitPx { s with run := n }) :
    t.run = n ∧ t.px = s.px ∧ t.idx = s.idx ∧ Emitted s t ∧ OpcodeFrame s t := by
  subst h
  obtain ⟨hframe, hpx, hidx, hrun⟩ := emitPx_frame { s with run := n }
  exact ⟨hrun, hpx, hidx, emitPx_emitted { s with run := n }, hframe⟩

theorem step_of_run_byte {s : State} {n : Nat} (hn : n ≤ 61) (hturn : OpcodeTurn s)
    (h0 : Supplies s 0 (BitVec.ofNat 8 (0xC0 + n))) : step s = exec (.run (BitVec.ofNat 6 n)) (consume 1 s) := by
  have hsel : select (BitVec.ofNat 8 (0xC0 + n)) = .run := select_eq_run.2 (by rw [toNat_byte] <;> omega)
  exact step_of_single_byte hturn h0 (by rw [opcodeLength_select, hsel]) (decode_run_byte hn [])

/-- Settles O12: its byte decodes to it, RUN is written and PX emitted, and its length is one. -/
theorem runOpcode : Obligations.RunOpcode :=
  ⟨fun _ rest hn => decode_run_byte hn rest, fun _ _ => ⟨_, rfl, emitPx_withRun rfl⟩,
    fun _ _ hn hturn h0 => step_of_run_byte hn hturn h0⟩

end Sys2Proof.Machine
end

section
/-! The pixel loop (O13, O14, O15, O21): each iteration emits one pixel or raises StreamExhausted, which only a missing
byte in strict mode does. A whole run and a whole image follow by induction on the iterations. -/

namespace Sys2Proof.Machine

/-! ## One iteration -/

theorem step_of_repeat {s : State} (hhost : s.host = []) (hpix : s.dphase = .pix) (hrun : s.run ≠ 0) :
    step s = .next (repeatPixel s) := by
  rw [step_of_no_move hhost, coreStep_of_pix hpix, iteration, if_neg hrun]

/-- Settles O13: the repeat writes RUN alone and emits PX. -/
theorem repeatIteration : Obligations.RepeatIteration := by
  intro s hhost hpix hrun
  obtain ⟨hrun', heffect⟩ := emitPx_withRun (s := s) (t := repeatPixel s) rfl
  exact ⟨repeatPixel s, step_of_repeat hhost hpix hrun, by rw [hrun']; bv_omega, heffect⟩

/-- What an iteration comes to: one emission after at most five reads, or StreamExhausted in strict mode (R131). -/
theorem loopStep_next {s t : State} (hhost : s.host = []) (hpix : s.dphase = .pix) (h : step s = .next t) :
    (Emitted s t ∧ KeepsHeader s t ∧ ∃ n, n ≤ 5 ∧ t.rdcnt = s.rdcnt + n ∧ t.requests = s.requests + n) ∨
    (s.cfg.lenientRead = false ∧ t.dphase = .err) := by
  by_cases hrun : s.run = 0
  · rw [step_of_opcodeTurn ⟨hhost, hpix, hrun⟩] at h
    rcases opcodeIteration_cases s with ⟨b1, _, i, _, _, hn⟩ | ⟨k, _, _, hl, hn⟩ | ⟨k, _, _, hn⟩
    · obtain ⟨u, hu, ⟨_, hheader, hrd, hrq, _⟩, he⟩ := exec_emits i (consume (opcodeLength b1) s)
      cases (hn.trans hu).symm.trans h
      exact .inl ⟨he, hheader, opcodeLength b1, opcodeLength_le b1, hrd, hrq⟩
    · cases hn.symm.trans h
      exact .inr ⟨hl, rfl⟩
    · cases hn.symm.trans h
  · obtain ⟨u, hu, _, _, _, he, _, hheader, hrd, hrq, _⟩ := repeatIteration s hhost hpix hrun
    cases hu.symm.trans h
    exact .inl ⟨he, hheader, 0, by omega, hrd, hrq⟩

/-- Settles O14: the other thing an iteration comes to is an error. -/
theorem iterationEmitsOnePixel : Obligations.IterationEmitsOnePixel := by
  intro s t hhost hpix h hne
  rcases loopStep_next hhost hpix h with hemitted | ⟨_, herr⟩
  · exact hemitted
  · exact absurd herr hne

/-! ## States of the loop and of its end -/

theorem Emitted.pos_eq {s t : State} (h : Emitted s t) : t.pos = s.pos + 1 := by
  obtain ⟨-, -, hpos, -⟩ := h
  exact hpos

/-- An emission in the loop leaves the loop running or ended well. -/
theorem Emitted.decoded {s t : State} (h : Emitted s t) (hpix : s.dphase = .pix) : Decoded t := by
  rcases h.dphase_eq with hok | hd
  · exact .inr hok
  · exact .inl (hd.trans hpix)

/-- While POS has not reached NPIX the loop runs (R120). -/
theorem CoreInv.pix_of_room {s : State} (hs : CoreInv s) (hd : Decoded s) (hroom : s.pos ≠ s.npix) :
    s.dphase = .pix :=
  hd.resolve_right fun hok => hroom (hs.ended hok)

/-- At POS = NPIX the decode has ended well (R134). -/
theorem CoreInv.ok_of_full {s : State} (hs : CoreInv s) (hd : Decoded s) (hfull : s.pos = s.npix) :
    s.dphase = .ok ∧ s.imgValid = true := by
  have hok : s.dphase = .ok := hd.resolve_left fun hpix => (hs.looping hpix).ne hfull
  exact ⟨hok, hs.imgValid_iff.2 hok⟩

theorem run_succ_of_step {s t : State} (k : Nat) (h : step s = .next t) :
    Host.Core.run Sys2Proof.core (k + 1) s = Host.Core.run Sys2Proof.core k t := by
  have hstep : Sys2Proof.core.step s = .next t := h
  simp only [Host.Core.run, hstep]

/-! ## A run -/

/-- From `s` to `t` PX has been emitted `k` times: slots POS to POS + k - 1 hold it, every other byte of the image store
is unchanged, and of the registers only POS has moved. -/
structure EmitsCopies (s t : State) (k : Nat) : Prop where
  host : t.host = s.host
  npix : t.npix = s.npix
  derr : t.derr = s.derr
  rdcnt : t.rdcnt = s.rdcnt
  requests : t.requests = s.requests
  px : t.px = s.px
  idx : t.idx = s.idx
  pos : t.pos = s.pos + k
  slots : ∀ j, j < k → readSlot t.img (s.pos + j) = some s.px
  outside : ∀ a, a < slotAddr s.pos ∨ slotAddr (s.pos + k) ≤ a → Memory.read t.img a = Memory.read s.img a

theorem EmitsCopies.refl (s : State) : EmitsCopies s s 0 :=
  ⟨rfl, rfl, rfl, rfl, rfl, rfl, rfl, rfl, fun _ hj => absurd hj (Nat.not_lt_zero _), fun _ _ => rfl⟩

theorem EmitsCopies.of_emitted {s t : State} (he : Emitted s t) (hframe : OpcodeFrame s t) (hpx : t.px = s.px)
    (hidx : t.idx = s.idx) : EmitsCopies s t 1 := by
  obtain ⟨hslot, hout, hpos, -⟩ := he
  obtain ⟨⟨-, hhost, -⟩, ⟨hnpix, -, -, -, -, hderr⟩, hrd, hrq, -⟩ := hframe
  refine ⟨hhost, hnpix, hderr, hrd, hrq, hpx, hidx, hpos, fun j hj => ?_, hout⟩
  obtain rfl : j = 0 := by omega
  exact hpx ▸ hslot

/-- One more copy in front: the slot it wrote is outside those written after it. -/
theorem EmitsCopies.cons {s t u : State} {k : Nat} (h : EmitsCopies s t 1) (h' : EmitsCopies t u k) :
    EmitsCopies s u (k + 1) where
  host := h'.host.trans h.host
  npix := h'.npix.trans h.npix
  derr := h'.derr.trans h.derr
  rdcnt := h'.rdcnt.trans h.rdcnt
  requests := h'.requests.trans h.requests
  px := h'.px.trans h.px
  idx := h'.idx.trans h.idx
  pos := by rw [h'.pos, h.pos, Nat.add_assoc, Nat.add_comm 1]
  slots j hj := by
    cases j with
    | zero =>
      have hkept : readSlot u.img s.pos = readSlot t.img s.pos :=
        readSlot_congr fun a _ hlt => h'.outside a (.inl (by rw [h.pos]; exact hlt))
      exact hkept.trans (h.slots 0 Nat.one_pos)
    | succ j =>
      have hlater := h'.slots j (by omega)
      rwa [h.pos, h.px, Nat.add_assoc, Nat.add_comm 1] at hlater
  outside a ha := by
    have hpos := h.pos
    unfold slotAddr at ha
    rw [h'.outside a (by unfold slotAddr; omega), h.outside a (by unfold slotAddr; omega)]

/-- As many repeats as RUN and the image have room for: each emits PX (R129). -/
theorem CoreInv.run_repeats {s : State} {k : Nat} (hs : CoreInv s) (hhost : s.host = []) (hd : Decoded s)
    (hrun : k ≤ s.run.toNat) (hroom : s.pos + k ≤ s.npix) :
    ∃ t, Host.Core.run Sys2Proof.core k s = .next t ∧ CoreInv t ∧ Decoded t ∧ EmitsCopies s t k ∧
      t.run.toNat + k = s.run.toNat := by
  induction k generalizing s with
  | zero => exact ⟨s, rfl, hs, hd, .refl s, rfl⟩
  | succ k ih =>
    have hpix := hs.pix_of_room hd (by omega)
    obtain ⟨t, ht, hless, hpx, hidx, he, hframe⟩ := repeatIteration s hhost hpix (fun h => by simp [h] at hrun)
    have hone := EmitsCopies.of_emitted he hframe hpx hidx
    obtain ⟨u, hu, hinv, hdu, hcopies, hrunu⟩ := ih (stepKeepsInvariant s t hs ht) (hone.host.trans hhost)
      (he.decoded hpix) (by omega) (by rw [hone.pos, hone.npix]; omega)
    exact ⟨u, (run_succ_of_step k ht).trans hu, hinv, hdu, hone.cons hcopies, by omega⟩

/-- Settles O15: the RUN byte emits PX once and sets RUN to `n`, and the repeats emit it as often as there is room. -/
theorem runEmitsRepeats : Obligations.RunEmitsRepeats := by
  intro s n m hs hturn hn h0 hm
  have hbyte := step_of_run_byte hn hturn h0
  obtain ⟨hhost, hpix, -⟩ := hturn
  have hlt := hs.looping hpix
  obtain ⟨k, rfl⟩ : ∃ k, m = k + 1 := ⟨m - 1, by omega⟩
  obtain ⟨-, heffect, -⟩ := runOpcode
  obtain ⟨u, hexec, hrun, hpx, hidx, he, hframe⟩ := heffect (BitVec.ofNat 6 n) (consume 1 s)
  have hstep := hbyte.trans hexec
  have hfirst := EmitsCopies.of_emitted he hframe hpx hidx
  have hposu : u.pos = s.pos + 1 := hfirst.pos
  have hnpixu : u.npix = s.npix := hfirst.npix
  have hrunu : u.run.toNat = n := by
    rw [hrun, BitVec.toNat_ofNat]
    omega
  obtain ⟨t, hloop, hinv, hdt, hrest, hleft⟩ := (stepKeepsInvariant s u hs hstep).run_repeats (k := k)
    (hfirst.host.trans hhost) (he.decoded hpix) (by omega) (by omega)
  have hall := hfirst.cons hrest
  have hpost : t.pos = s.pos + (k + 1) := hall.pos
  have hnpixt : t.npix = s.npix := hall.npix
  refine ⟨t, (run_succ_of_step k hstep).trans hloop, hall.pos, hall.rdcnt, hall.requests, hall.px, hall.idx,
    hall.slots, hall.outside, hall.derr, fun hfull => hinv.ok_of_full hdt (hfull.trans hnpixt.symm), fun hroom => ?_⟩
  have hzero : t.run.toNat = 0 := by omega
  exact ⟨hinv.pix_of_room hdt (by omega), BitVec.eq_of_toNat_eq hzero⟩

/-! ## LENIENT_READ = true (R137) -/

/-- A closed source has answered every request (R50). -/
theorem answer_ne_none_of_closed {src : Source} (h : src.closed = true) (k : Nat) : Source.answer src k ≠ none := by
  rw [Source.answer, h]
  cases src.answers[k]? <;> simp

/-- With a closed source the loop always has its step. -/
theorem loopStep_of_closed {s : State} (hhost : s.host = []) (hpix : s.dphase = .pix) (hclosed : s.src.closed = true) :
    ∃ t, step s = .next t := by
  by_cases hrun : s.run = 0
  · rw [step_of_opcodeTurn ⟨hhost, hpix, hrun⟩]
    rcases opcodeIteration_cases s with ⟨b1, _, i, _, _, hn⟩ | ⟨k, _, _, _, hn⟩ | ⟨k, _, hun, _⟩
    · obtain ⟨t, ht, _⟩ := exec_emits i (consume (opcodeLength b1) s)
      exact ⟨t, hn.trans ht⟩
    · exact ⟨_, hn⟩
    · exact absurd hun (answer_ne_none_of_closed hclosed _)
  · exact ⟨_, step_of_repeat hhost hpix hrun⟩

/-- Under LENIENT_READ = true every iteration emits its pixel. -/
theorem loopStep_lenient {s t : State} (hhost : s.host = []) (hpix : s.dphase = .pix)
    (hl : s.cfg.lenientRead = true) (h : step s = .next t) : Emitted s t ∧ KeepsHeader s t := by
  rcases loopStep_next hhost hpix h with ⟨he, hheader, _⟩ | ⟨hstrict, _⟩
  · exact ⟨he, hheader⟩
  · simp [hl] at hstrict

/-- As many iterations as the image has room for end the decode well. -/
theorem CoreInv.run_lenient {s : State} {k : Nat} (hs : CoreInv s) (hhost : s.host = []) (hd : Decoded s)
    (hl : s.cfg.lenientRead = true) (hclosed : s.src.closed = true) (hk : s.pos + k = s.npix) :
    ∃ t, Host.Core.run Sys2Proof.core k s = .next t ∧ t.dphase = .ok ∧ t.imgValid = true := by
  induction k generalizing s with
  | zero => exact ⟨s, rfl, hs.ok_of_full hd hk⟩
  | succ k ih =>
    have hpix := hs.pix_of_room hd (by omega)
    obtain ⟨t, ht⟩ := loopStep_of_closed hhost hpix hclosed
    obtain ⟨he, hnpix, _⟩ := loopStep_lenient hhost hpix hl ht
    obtain ⟨hcfg, hhost', hsrc, _⟩ := decodeLeavesPermuter s t hhost (.inr hpix) ht
    have hpos := he.pos_eq
    rw [run_succ_of_step k ht]
    exact ih (stepKeepsInvariant s t hs ht) (hhost'.trans hhost) (he.decoded hpix) (hcfg ▸ hl) (hsrc ▸ hclosed)
      (by omega)

/-- Settles O21: a missing first byte reads 0x00, which is INDEX 0; every iteration emits, and the image fills up. -/
theorem lenientLoopNeverFails : Obligations.LenientLoopNeverFails := by
  refine ⟨fun s hturn hl hend => step_of_index_byte 0 hturn (.inr ⟨hend, hl, rfl⟩), fun s t hhost hpix hl h => ?_,
    fun s hs hhost hpix hl hclosed => ?_⟩
  · obtain ⟨he, hheader⟩ := loopStep_lenient hhost hpix hl h
    obtain ⟨-, -, -, -, -, hderr⟩ := hheader
    refine ⟨hderr, ?_⟩
    rcases he.decoded hpix with hd | hd <;> simp [hd]
  · have := hs.looping hpix
    exact hs.run_lenient hhost (.inl hpix) hl hclosed (by omega)

end Sys2Proof.Machine
end

section
/-! The permuter (O28, O30, O31, O32, O35). One notion carries the surface's statements: each pixel before CPOS stands
at its place. A grant starts with none, a copy step adds its own, and NPIX copy steps make the whole image. -/

namespace Sys2Proof.Machine

/-! ## START_CONVERT (R160) -/

theorem startConvertEnabled_iff {s : State} : startConvertEnabled s = true ↔
    s.imgValid = true ∧ s.cphase ≠ .alloc ∧ s.cphase ≠ .copy := by
  simp [startConvertEnabled]

theorem startConvertEnabled_eq_false {s : State}
    (h : s.imgValid = false ∨ s.cphase = .alloc ∨ s.cphase = .copy) : startConvertEnabled s = false := by
  rcases h with h | h | h <;> simp [startConvertEnabled, h]

theorem step_startConvert {s : State} {rest : List HostMove} (hhost : s.host = .command .startConvert :: rest) :
    step s = if startConvertEnabled s then .next (startConvert { s with host := rest })
      else .refused (.commandNotEnabled .startConvert) := by
  rw [step, nextMove, hhost]
  rfl

/-- Settles O28, by the command's equation in the two cases of its enabling condition. -/
theorem startConvertCommand : Obligations.StartConvertCommand := by
  intro s rest hhost
  refine ⟨fun hv ha hc => ⟨startConvert { s with host := rest }, ?_, ?_⟩, fun hbusy => ?_⟩
  · rw [step_startConvert hhost, if_pos (startConvertEnabled_iff.2 ⟨hv, ha, hc⟩)]
  · simp [KeepsDecodeSide, KeepsHeader]
  · rw [step_startConvert hhost, startConvertEnabled_eq_false hbusy]
    rfl

/-! ## The allocation step (R161, R162) -/

theorem allocStep_granted {s : State} {base : Nat} (h : s.alloc = some (.granted base)) :
    allocStep s = .next (grantSurface base s) := by
  simp [allocStep, h]

theorem allocStep_refused {s : State} (h : s.alloc = some .refused) :
    allocStep s = .next (raiseConvert { s with alloc := none }) := by
  simp [allocStep, h]

theorem step_of_alloc {s : State} (hhost : s.host = []) (hh : s.dphase ≠ .hdr) (hp : s.dphase ≠ .pix)
    (hc : s.cphase = .alloc) : step s = allocStep s := by
  rw [step_of_no_move hhost, coreStep_of_alloc hh hp hc]

theorem grantSurface_read_inside {base a : Nat} (s : State) (hlo : base ≤ a) (hhi : a < base + surfaceSize s.npix) :
    Memory.read (grantSurface base s).bmp a = none := by
  rw [grantSurface_bmp, Memory.read_forget, if_pos ⟨hlo, hhi⟩]

theorem grantSurface_read_outside {base a : Nat} (s : State) (h : a < base ∨ base + surfaceSize s.npix ≤ a) :
    Memory.read (grantSurface base s).bmp a = Memory.read s.bmp a := by
  rw [grantSurface_bmp, Memory.read_forget, if_neg (by omega)]

/-- Settles O30: the step is the allocation step, and the prepared answer is a grant or a refusal. -/
theorem allocationStep : Obligations.AllocationStep := by
  intro s hhost hh hp hc
  refine ⟨by simp [allocRequest, hc, surfaceSize], fun base hgrant => ?_, fun hrefused => ?_⟩
  · have hstep := allocStep_granted hgrant
    exact ⟨grantSurface base s, (step_of_alloc hhost hh hp hc).trans hstep, rfl, rfl, rfl, rfl, rfl, rfl, rfl,
      fun _ => grantSurface_read_inside s, fun _ => grantSurface_read_outside s, allocStep_keepsDecodeSide hstep⟩
  · have hstep := allocStep_refused hrefused
    exact ⟨_, (step_of_alloc hhost hh hp hc).trans hstep, rfl, rfl, rfl, rfl, rfl, rfl, rfl, fun _ => rfl,
      allocStep_keepsDecodeSide hstep⟩

/-! ## The copy step (R164 to R166) -/

@[simp] theorem copyPixel_bmp (p : Pixel) (s : State) :
    (copyPixel p s).bmp = writeSurfacePixel s.bmp s.bmpBase s.cpos p := by simp [copyPixel]
@[simp] theorem copyPixel_cpos (p : Pixel) (s : State) : (copyPixel p s).cpos = s.cpos + 1 := by simp [copyPixel]
@[simp] theorem copyPixel_bmpBase (p : Pixel) (s : State) : (copyPixel p s).bmpBase = s.bmpBase := by simp [copyPixel]
@[simp] theorem copyPixel_cerr (p : Pixel) (s : State) : (copyPixel p s).cerr = s.cerr := by simp [copyPixel]
@[simp] theorem copyPixel_alloc (p : Pixel) (s : State) : (copyPixel p s).alloc = s.alloc := by simp [copyPixel]
@[simp] theorem copyPixel_img (p : Pixel) (s : State) : (copyPixel p s).img = s.img := by simp [copyPixel]

theorem copyStep_of_slot {s : State} {p : Pixel} (h : readSlot s.img s.cpos = some p) :
    copyStep s = .next (copyPixel p s) := by
  simp [copyStep, h]

theorem step_of_copy {s : State} {p : Pixel} (hhost : s.host = []) (hh : s.dphase ≠ .hdr) (hp : s.dphase ≠ .pix)
    (hc : s.cphase = .copy) (hlt : s.cpos < s.npix) (hslot : readSlot s.img s.cpos = some p) :
    step s = .next (copyPixel p s) := by
  rw [step_of_no_move hhost, coreStep_of_copy hh hp hc hlt, copyStep_of_slot hslot]

/-- A copy step leaves every byte outside its own surface pixel alone. -/
theorem copyPixel_read_outside {s : State} (p : Pixel) {a : Nat}
    (h : a < surfaceAddr s.bmpBase s.cpos ∨ surfaceAddr s.bmpBase s.cpos + 4 ≤ a) :
    Memory.read (copyPixel p s).bmp a = Memory.read s.bmp a := by
  rw [copyPixel_bmp]
  exact Memory.read_writeFour_outside _ _ _ _ _ _ h

/-- ARGB stands for four channels (R165). -/
theorem alphaModeOf_eq_argb {ch : Byte} : alphaModeOf ch = .argb ↔ ch = 4 := by
  simp [alphaModeOf]

/-- Settles O31: the step copies the slot's pixel, and it is the completing one exactly when CPOS + 1 = NPIX. -/
theorem copyStep_spec : Obligations.CopyStep := by
  intro s p hhost hh hp hc hlt hslot
  refine ⟨copyPixel p s, step_of_copy hhost hh hp hc hlt hslot, ?_, fun a => copyPixel_read_outside p, by simp, by simp,
    by simp, by simp, copyStep_keepsDecodeSide (copyStep_of_slot hslot), fun hlast => ?_, fun hmore => ?_⟩
  · rw [copyPixel_bmp]
    exact holdsPixel_write_same _ _ _ _
  · rw [copyPixel_last p hlast]
    exact ⟨rfl, rfl, alphaModeOf_eq_argb.2, fun h3 => congrArg alphaModeOf h3⟩
  · rw [copyPixel_more p hmore]
    exact ⟨hc, rfl, rfl⟩

/-! ## The pixels copied so far -/

/-- Each pixel before CPOS stands at its place in the surface (R164). -/
def Copied (s : State) : Prop :=
  ∀ k, k < s.cpos → ∃ p, readSlot s.img k = some p ∧ HoldsPixel s.bmp s.bmpBase k p

theorem surfaceInv_iff_copied {s : State} : SurfaceInv s ↔ (s.cphase = .copy → Copied s) := Iff.rfl

theorem copied_of_cpos_eq_zero {s : State} (h : s.cpos = 0) : Copied s :=
  fun k hk => absurd hk (by omega)

/-- A copy step adds its own pixel and keeps the earlier ones. -/
theorem Copied.copyPixel {s : State} {p : Pixel} (h : Copied s) (hslot : readSlot s.img s.cpos = some p) :
    Copied (copyPixel p s) := by
  intro k hk
  simp only [copyPixel_img, copyPixel_bmp, copyPixel_bmpBase, copyPixel_cpos] at hk ⊢
  by_cases heq : k = s.cpos
  · subst heq
    exact ⟨p, hslot, holdsPixel_write_same _ _ _ _⟩
  · obtain ⟨q, hq, hheld⟩ := h k (by omega)
    exact ⟨q, hq, holdsPixel_write_other heq hheld⟩

/-! ## The surface invariant -/

theorem surfaceInv_of_not_copy {s : State} (h : s.cphase ≠ .copy) : SurfaceInv s :=
  fun hc => absurd hc h

theorem KeepsConvertSide.cphase_eq {s t : State} (h : KeepsConvertSide s t) : t.cphase = s.cphase := by
  obtain ⟨-, -, -, -, hc, -⟩ := h
  exact hc

/-- The decode engine's steps find the permuter at rest; a grant has copied nothing; a copy step adds its pixel. -/
theorem CoreInv.coreStep_surfaceInv {s t : State} (hs : CoreInv s) (h : SurfaceInv s)
    (hstep : Machine.coreStep s = .next t) : SurfaceInv t := by
  by_cases hrun : s.dphase = .hdr ∨ s.dphase = .pix
  · apply surfaceInv_of_not_copy
    rw [(coreStep_keepsConvertSide hrun hstep).cphase_eq]
    exact (hs.permuter_idle hrun).2
  rcases coreStep_next_permuter hrun hstep with ⟨hc, hn⟩ | ⟨hc, hn⟩
  · rcases allocStep_next hn with ⟨base, _, rfl⟩ | ⟨_, rfl⟩
    · exact fun _ => copied_of_cpos_eq_zero (hs.uncopied hc)
    · exact surfaceInv_of_not_copy (by simp)
  · obtain ⟨p, hslot, rfl⟩ := copyStep_next hn
    exact fun _ => (surfaceInv_iff_copied.1 h hc).copyPixel hslot

/-- Settles O35: beside the core's own step, the host's side and START_DECODE touch nothing of the surface, and after
RESET and START_CONVERT no copy is under way. -/
theorem stepKeepsSurfaceInvariant : Obligations.StepKeepsSurfaceInvariant := by
  intro s t hs h hstep
  rcases step_next_action hstep with ⟨moves, hc⟩ | ⟨_, _, _, rfl⟩ | ⟨rest, ⟨_, rfl⟩ | ⟨_, _, rfl⟩ | ⟨_, _, rfl⟩⟩
  · exact (hs.hostSide moves s.src s.alloc).coreStep_surfaceInv h hc
  · exact h
  · exact surfaceInv_of_not_copy (by simp)
  · exact h
  · exact surfaceInv_of_not_copy (by simp)

/-! ## A whole conversion (R167, R221) -/

theorem KeepsDecodeSide.trans {s t u : State} (h : KeepsDecodeSide s t) (h' : KeepsDecodeSide t u) :
    KeepsDecodeSide s u := by
  simp_all [KeepsDecodeSide, KeepsHeader]

theorem KeepsDecodeSide.host_eq {s t : State} (h : KeepsDecodeSide s t) : t.host = s.host := by
  obtain ⟨-, hhost, -⟩ := h
  exact hhost

theorem KeepsDecodeSide.npix_eq {s t : State} (h : KeepsDecodeSide s t) : t.npix = s.npix := by
  obtain ⟨-, -, -, -, -, -, -, -, -, -, ⟨hnpix, -⟩, -⟩ := h
  exact hnpix

theorem KeepsDecodeSide.hdrCh_eq {s t : State} (h : KeepsDecodeSide s t) : t.hdrCh = s.hdrCh := by
  obtain ⟨-, -, -, -, -, -, -, -, -, -, ⟨-, -, -, hch, -⟩, -⟩ := h
  exact hch

theorem KeepsDecodeSide.readSlot_eq {s t : State} (h : KeepsDecodeSide s t) (k : Nat) :
    readSlot t.img k = readSlot s.img k := by
  obtain ⟨-, -, -, -, -, -, -, -, -, -, -, -, -, himg⟩ := h
  exact readSlot_congr fun a _ _ => himg a

/-- From `s` to `t` pixels have been copied into the surface granted in `s`, and nothing else has changed but CPOS and
what a completing step sets (R164 to R166). -/
structure CopiesPixels (s t : State) : Prop where
  bmpBase : t.bmpBase = s.bmpBase
  cerr : t.cerr = s.cerr
  decodeSide : KeepsDecodeSide s t
  copied : Copied s → Copied t
  outside : ∀ a, a < s.bmpBase ∨ s.bmpBase + surfaceSize s.npix ≤ a → Memory.read t.bmp a = Memory.read s.bmp a

theorem CopiesPixels.trans {s t u : State} (h : CopiesPixels s t) (h' : CopiesPixels t u) : CopiesPixels s u where
  bmpBase := h'.bmpBase.trans h.bmpBase
  cerr := h'.cerr.trans h.cerr
  decodeSide := h.decodeSide.trans h'.decodeSide
  copied hs := h'.copied (h.copied hs)
  outside a ha :=
    (h'.outside a (by rwa [h.bmpBase, h.decodeSide.npix_eq])).trans (h.outside a ha)

theorem CopiesPixels.of_copyPixel {s : State} {p : Pixel} (hlt : s.cpos < s.npix)
    (hslot : readSlot s.img s.cpos = some p) : CopiesPixels s (copyPixel p s) where
  bmpBase := copyPixel_bmpBase p s
  cerr := copyPixel_cerr p s
  decodeSide := copyStep_keepsDecodeSide (copyStep_of_slot hslot)
  copied h := h.copyPixel hslot
  outside a ha := copyPixel_read_outside p (by unfold surfaceAddr; unfold surfaceSize at ha; omega)

/-- The conversion has ended well, with every pixel copied (R166). -/
structure Converted (s : State) : Prop where
  cphase : s.cphase = .ok
  bmpValid : s.bmpValid = true
  alphaMode : s.alphaMode = alphaModeOf s.hdrCh
  cpos : s.cpos = s.npix

theorem converted_copyPixel {s : State} (p : Pixel) (hlast : s.cpos + 1 = s.npix) : Converted (copyPixel p s) := by
  rw [copyPixel_last p hlast]
  exact ⟨rfl, rfl, rfl, hlast⟩

/-- While pixels are copied the core has its copy step: the next slot holds a pixel. -/
theorem CoreInv.copyStep_ready {s : State} (hs : CoreInv s) (hhost : s.host = []) (hc : s.cphase = .copy) :
    ∃ p, readSlot s.img s.cpos = some p ∧ step s = .next (Machine.copyPixel p s) := by
  have hok := hs.exclusive (.inr hc)
  have hlt := hs.copying hc
  obtain ⟨p, hslot⟩ := hs.written (.inr hok) s.cpos (by rwa [hs.ended hok])
  exact ⟨p, hslot, step_of_copy hhost (by simp [hok]) (by simp [hok]) hc hlt hslot⟩

/-- As many copy steps as there are pixels left end the conversion. -/
theorem CoreInv.run_copies {s : State} {k : Nat} (hs : CoreInv s) (hhost : s.host = []) (hc : s.cphase = .copy)
    (hk : s.cpos + k = s.npix) :
    ∃ t, Host.Core.run Sys2Proof.core k s = .next t ∧ CopiesPixels s t ∧ Converted t := by
  induction k generalizing s with
  | zero => exact absurd hk (hs.copying hc).ne
  | succ k ih =>
    obtain ⟨p, hslot, hstep⟩ := hs.copyStep_ready hhost hc
    have hone := CopiesPixels.of_copyPixel (hs.copying hc) hslot
    rw [run_succ_of_step k hstep]
    by_cases hlast : s.cpos + 1 = s.npix
    · obtain rfl : k = 0 := by omega
      exact ⟨_, rfl, hone, converted_copyPixel p hlast⟩
    · have hinv := hs.copyPixel hc p
      have hcopy : (Machine.copyPixel p s).cphase = .copy := by rw [copyPixel_more p hlast, hc]
      obtain ⟨t, hrun, hrest, hdone⟩ := ih hinv (hone.decodeSide.host_eq.trans hhost) hcopy
        (by rw [copyPixel_cpos, hone.decodeSide.npix_eq]; omega)
      exact ⟨t, hrun, hone.trans hrest, hdone⟩

/-- Settles O32: the grant starts with no pixel copied, and NPIX copy steps copy them all. -/
theorem conversionWritesWholeSurface : Obligations.ConversionWritesWholeSurface := by
  intro s base hs hhost hc hgrant
  have hok := hs.exclusive (.inl hc)
  have halloc := allocStep_granted hgrant
  have hstep := (step_of_alloc hhost (by simp [hok]) (by simp [hok]) hc).trans halloc
  have hcpos := hs.uncopied hc
  obtain ⟨t, hrun, hcopies, hdone⟩ := (hs.grantSurface hc base).run_copies (k := s.npix) hhost rfl (by simp [hcpos])
  have hside := (allocStep_keepsDecodeSide halloc).trans hcopies.decodeSide
  have hcopied : Copied t := hcopies.copied (copied_of_cpos_eq_zero hcpos)
  refine ⟨t, ?_, hdone.cphase, hdone.bmpValid, hcopies.bmpBase, ?_, hcopies.cerr, fun k hk => ?_, fun a ha => ?_, hside⟩
  · rw [Nat.add_comm, run_succ_of_step _ hstep, hrun]
  · rw [hdone.alphaMode, alphaModeOf_eq_argb, hside.hdrCh_eq]
  · obtain ⟨p, hslot, hheld⟩ := hcopied k (by rwa [hdone.cpos, hside.npix_eq])
    exact ⟨p, by rwa [← hside.readSlot_eq], by rwa [hcopies.bmpBase] at hheld⟩
  · exact (hcopies.outside a ha).trans (grantSurface_read_outside s ha)

end Sys2Proof.Machine
end

section
/-! The header's errors and its accept (O17, O18) and StreamExhausted (O20): the first read that ends decides the error,
and with all fourteen bytes the five checks do. -/

namespace Sys2Proof.Machine

/-! ## The magic (R102, R103) -/

/-- Several magic reads, of which the first `k` give a byte and the next one ends, in either read mode. -/
theorem readMagicBytes_of_ends {n k : Nat} {s : State} (hk : k < n) (hans : ∀ j, j < k → ∃ v, Answers s j v)
    (hend : Ends s k) :
    readMany readMagicByte n s = .raised (raiseDecode .invalidMagic (consume (k + 1) s)) := by
  induction n generalizing k s with
  | zero => omega
  | succ n ih =>
    cases k with
    | zero =>
      rw [readMany, readMagicByte_of_ends hend]
      rfl
    | succ k =>
      obtain ⟨v, hv⟩ := hans 0 (by omega)
      have hrest := ih (s := consume 1 s) (k := k) (by omega)
        (fun j hj => by simpa [Nat.add_comm] using hans (j + 1) (by omega)) (by simpa [Nat.add_comm] using hend)
      rw [readMany, readMagicByte_of_answers hv, Port.andThen, hrest, Port.andThen, consume_consume, Nat.add_comm 1]

theorem readMagic_of_ends {k : Nat} {s : State} (hk : k < 4) (hans : ∀ j, j < k → ∃ v, Answers s j v)
    (hend : Ends s k) : readMagic s = .raised (raiseDecode .invalidMagic (consume (k + 1) s)) := by
  rw [readMagic, readMagicBytes_of_ends hk hans hend, Port.andThen]

/-- Four bytes as one number, the first the most significant (R57). -/
theorem ofBigEndian_toNat (b3 b2 b1 b0 : Byte) : (ofBigEndian [b3, b2, b1, b0]).toNat =
    b3.toNat * 2 ^ 24 + b2.toNat * 2 ^ 16 + b1.toNat * 2 ^ 8 + b0.toNat := by
  have h3 := b3.isLt
  have h2 := b2.isLt
  have h1 := b1.isLt
  have h0 := b0.isLt
  simp only [ofBigEndian, List.foldl, BitVec.toNat_ofNat]
  omega

theorem ofBigEndian_eq_magic {b0 b1 b2 b3 : Byte} : ofBigEndian [b0, b1, b2, b3] = magic ↔
    b0 = 0x71 ∧ b1 = 0x6F ∧ b2 = 0x69 ∧ b3 = 0x66 := by
  have h0 := b0.isLt
  have h1 := b1.isLt
  have h2 := b2.isLt
  have h3 := b3.isLt
  simp only [← BitVec.toNat_inj, ofBigEndian_toNat, magic, BitVec.ofNat_eq_ofNat, BitVec.toNat_ofNat]
  omega

theorem readMagic_of_wrong {s : State} {b0 b1 b2 b3 : Byte} (h0 : Answers s 0 b0) (h1 : Answers s 1 b1)
    (h2 : Answers s 2 b2) (h3 : Answers s 3 b3) (hne : ¬ (b0 = 0x71 ∧ b1 = 0x6F ∧ b2 = 0x69 ∧ b3 = 0x66)) :
    readMagic s = .raised (raiseDecode .invalidMagic (consume 4 s)) := by
  have hmany : readMany readMagicByte 4 s = .got [b0, b1, b2, b3] (consume 4 s) := by
    refine readMagicBytes_of_answers (bs := [b0, b1, b2, b3]) fun k v hv => ?_
    match k, hv with
    | 0, rfl => exact h0
    | 1, rfl => exact h1
    | 2, rfl => exact h2
    | 3, rfl => exact h3
  rw [readMagic, hmany, Port.andThen, if_neg (ofBigEndian_eq_magic.not.2 hne)]

/-! ## The header step, by what its reads come to -/

theorem step_of_headerTurn {s : State} (h : HeaderTurn s) : step s = headerStep s := by
  obtain ⟨hhost, hhdr⟩ := h
  rw [step_of_no_move hhost, coreStep, hhdr]

theorem headerStep_of_magic_raised {s t : State} (h : readMagic s = .raised t) : headerStep s = .next t := by
  simp only [headerStep, h, Port.andThen]

theorem headerStep_of_fields_raised {s t u : State} (hmagic : readMagic s = .got () u)
    (hfields : readBytes 10 u = .raised t) : headerStep s = .next t := by
  simp only [headerStep, hmagic, readFields, hfields, Port.andThen]

theorem headerStep_of_fields {s t u : State} {fs : List Byte} (hmagic : readMagic s = .got () u)
    (hfields : readBytes 10 u = .got fs t) : headerStep s = .next (acceptHeader (loadFields fs t)) := by
  simp only [headerStep, hmagic, readFields, hfields, Port.andThen]

/-- Settles O17: a magic read that ends raises at its own request, and four bytes make the magic only if each is the
right one. -/
theorem magicIsChecked : Obligations.MagicIsChecked := by
  refine ⟨fun s k hturn hk hans hend => ?_, fun s b0 b1 b2 b3 hturn h0 h1 h2 h3 hne => ?_⟩
  · have hmagic := readMagic_of_ends hk hans hend
    exact ⟨_, (step_of_headerTurn hturn).trans (headerStep_of_magic_raised hmagic), raiseDecode_failed _ s _⟩
  · have hmagic := readMagic_of_wrong h0 h1 h2 h3 hne
    exact ⟨_, (step_of_headerTurn hturn).trans (headerStep_of_magic_raised hmagic), raiseDecode_failed _ s _⟩

/-! ## The checks (R105, R107) -/

/-- The checks pass exactly when none of R105's five conditions holds. -/
theorem headerOk_iff_not_refused {p : Nat} {w h : Word32} {ch cs : Byte} : headerOk p w h ch cs = true ↔
    ¬ (w.toNat = 0 ∨ h.toNat = 0 ∨ ¬ (ch = 3 ∨ ch = 4) ∨ ¬ (cs = 0 ∨ cs = 1) ∨ p / w.toNat ≤ h.toNat) := by
  simp only [headerOk, Bool.and_eq_true, Bool.or_eq_true, decide_eq_true_eq, not_or, not_and_or, not_not, not_le,
    and_assoc, ne_eq]

theorem acceptHeader_of_ok {s : State} (h : headerOk s.cfg.pixelsMax s.hdrW s.hdrH s.hdrCh s.hdrCs = true) :
    acceptHeader s = { s with npix := s.hdrW.toNat * s.hdrH.toNat, dphase := .pix } :=
  if_pos h

theorem acceptHeader_of_not_ok {s : State} (h : ¬ headerOk s.cfg.pixelsMax s.hdrW s.hdrH s.hdrCh s.hdrCs = true) :
    acceptHeader s = raiseDecode .invalidHeader s :=
  if_neg h

/-- An error leaves no trace of the fields that were loaded (R184). -/
theorem raiseDecode_loadFields (e : DecodeErr) (fs : List Byte) (s : State) :
    raiseDecode e (loadFields fs s) = raiseDecode e s := rfl

/-- Settles O18: the fourteen bytes are read and loaded, and the five checks are R105's conditions on the loaded
numbers. -/
theorem headerIsCheckedAndLoaded : Obligations.HeaderIsCheckedAndLoaded := by
  intro s w3 w2 w1 w0 h3 h2 h1 h0 ch cs w h hturn hm0 hm1 hm2 hm3 hs4 hs5 hs6 hs7 hs8 hs9 hs10 hs11 hs12 hs13 hw hh
  have hfs : SuppliesAll (consume 4 s) [w3, w2, w1, w0, h3, h2, h1, h0, ch, cs] := by
    simp only [suppliesAll_cons, consume_consume, supplies_consume]
    exact ⟨hs4, hs5, hs6, hs7, hs8, hs9, hs10, hs11, hs12, hs13, suppliesAll_nil _⟩
  have hstep := (step_of_headerTurn hturn).trans
    (headerStep_of_fields (readMagic_of_magic hm0 hm1 hm2 hm3) (readBytes_of_supplies hfs))
  rw [← ofBigEndian_toNat] at hw hh
  subst hw hh
  refine ⟨_, hstep, fun hrefused => ?_, fun hok => ?_⟩
  · rw [acceptHeader_of_not_ok fun hok => headerOk_iff_not_refused.1 hok hrefused, raiseDecode_loadFields]
    exact raiseDecode_failed .invalidHeader s 14
  · rw [acceptHeader_of_ok (headerOk_iff_not_refused.2 hok)]
    simp [loadFields, KeepsConvertSide]

/-! ## A missing byte (R183) -/

theorem fetch_of_ends {s : State} (hend : Ends s 0) (hl : s.cfg.lenientRead = false) :
    fetch s = .raised (raiseDecode .streamExhausted (consume 1 s)) := by
  rw [fetch, readByte_of_ends hend hl, Port.andThen]

/-- An emission in the pixel loop raises no error. -/
theorem Emitted.dphase_ne_err {s t : State} (h : Emitted s t) (hpix : s.dphase = .pix) : t.dphase ≠ .err := by
  rcases h.dphase_eq with hd | hd <;> simp [hd, hpix]

/-- Settles O20: the field byte, first byte or extra byte that is missing raises at its own request, and a repeat
reads none. -/
theorem missingByteRaisesStreamExhausted : Obligations.MissingByteRaisesStreamExhausted := by
  refine ⟨fun s k hturn hl h0 h1 h2 h3 hk hans hend => ?_, fun s hturn hl hend => ?_,
    fun s b1 k hturn hl h0 => step_of_missing_extra_byte hturn hl h0, fun s hhost hpix hrun => ?_⟩
  · have hfields := readBytes_of_ends (s := consume 4 s) hk (by simpa using hans) (by simpa using hend) hl
    rw [consume_consume, ← Nat.add_assoc] at hfields
    exact ⟨_, (step_of_headerTurn hturn).trans
      (headerStep_of_fields_raised (readMagic_of_magic h0 h1 h2 h3) hfields), raiseDecode_failed _ s _⟩
  · exact ⟨_, by rw [step_of_opcodeTurn hturn, opcodeIteration, fetch_of_ends hend hl], raiseDecode_failed _ s _⟩
  · obtain ⟨t, hstep, -, -, -, hemitted, -, ⟨-, -, -, -, -, hderr⟩, -⟩ := repeatIteration s hhost hpix hrun
    exact ⟨t, hstep, hderr, hemitted.dphase_ne_err hpix⟩

end Sys2Proof.Machine
end

section
/-! The entry of a decode error (O22), what leaves the two error states (O23), the permuter's frame (O43) and the units at
rest (O24). -/

namespace Sys2Proof.Machine

/-! ## Decode error entry (R184) -/

/-- A header that is not accepted is refused (R105). -/
theorem acceptHeader_err {s : State} (herr : (acceptHeader s).dphase = .err) :
    acceptHeader s = raiseDecode .invalidHeader s := by
  refine acceptHeader_of_not_ok fun hok => ?_
  rw [acceptHeader_of_ok hok] at herr
  cases herr

theorem headerStep_err {s t : State} (h : headerStep s = .next t) (herr : t.dphase = .err) :
    ∃ e n, e ≠ DecodeErr.none ∧ n ≤ 14 ∧ t = raiseDecode e (consume n s) := by
  rcases headerStep_cases s with ⟨_, fs, _, _, _, _, _, hn⟩ | ⟨n, hle, hn⟩ | ⟨n, hle, _, hn⟩ | hn <;>
    cases hn.symm.trans h
  · exact ⟨.invalidHeader, 14, by decide, le_rfl, acceptHeader_err herr⟩
  · exact ⟨.invalidMagic, n, by decide, by omega, rfl⟩
  · exact ⟨.streamExhausted, n, by decide, hle, rfl⟩

theorem opcodeIteration_err {s t : State} (hpix : s.dphase = .pix) (h : opcodeIteration s = .next t)
    (herr : t.dphase = .err) : ∃ e n, e ≠ DecodeErr.none ∧ n ≤ 14 ∧ t = raiseDecode e (consume n s) := by
  rcases opcodeIteration_cases s with ⟨b1, _, i, _, _, hn⟩ | ⟨k, hk, _, _, hn⟩ | ⟨k, _, _, hn⟩
  · obtain ⟨u, hu, -, hemitted⟩ := exec_emits i (consume (opcodeLength b1) s)
    cases (hn.trans hu).symm.trans h
    exact absurd herr (hemitted.dphase_ne_err hpix)
  · cases hn.symm.trans h
    exact ⟨.streamExhausted, k + 1, by decide, by omega, rfl⟩
  · cases hn.symm.trans h

/-- Every error of the decode engine is raised after at most fourteen requests of its step. -/
theorem coreStep_err {s t : State} (hrun : s.dphase = .hdr ∨ s.dphase = .pix) (h : coreStep s = .next t)
    (herr : t.dphase = .err) : ∃ e n, e ≠ DecodeErr.none ∧ n ≤ 14 ∧ t = raiseDecode e (consume n s) := by
  rcases coreStep_next h with ⟨_, hn⟩ | ⟨hpix, _, hn⟩ | ⟨hpix, _, rfl⟩ | ⟨hh, hp, _⟩ | ⟨hh, hp, _⟩
  · exact headerStep_err hn herr
  · exact opcodeIteration_err hpix hn herr
  · exact absurd herr ((emitPx_emitted { s with run := s.run - 1 }).dphase_ne_err hpix)
  · exact (hrun.elim hh hp).elim
  · exact (hrun.elim hh hp).elim

/-- Settles O22: every error is an entry of R184 after the step's requests. -/
theorem decodeErrorEntry : Obligations.DecodeErrorEntry := by
  intro s t hhost hrun h herr
  rw [step_of_no_move hhost] at h
  obtain ⟨e, n, he, hn, rfl⟩ := coreStep_err hrun h herr
  exact ⟨e, n, he, hn, raiseDecode_failed e s n⟩

/-! ## Leaving an error (R189) -/

theorem KeepsDecodeSide.derr_eq {s t : State} (h : KeepsDecodeSide s t) : t.derr = s.derr := by
  obtain ⟨-, -, -, -, -, -, -, -, -, -, ⟨-, -, -, -, -, he⟩, -⟩ := h
  exact he

theorem KeepsConvertSide.cerr_eq {s t : State} (h : KeepsConvertSide s t) : t.cerr = s.cerr := by
  obtain ⟨-, -, -, -, -, he, -⟩ := h
  exact he

/-- While the permuter is at rest, the core's own step is the decode engine's and keeps the permuter's side. -/
theorem coreStep_keepsConvertSide_of_rest {s t : State} (ha : s.cphase ≠ .alloc) (hc : s.cphase ≠ .copy)
    (h : coreStep s = .next t) : KeepsConvertSide s t := by
  by_cases hrun : s.dphase = .hdr ∨ s.dphase = .pix
  · exact coreStep_keepsConvertSide hrun h
  · rcases coreStep_next_permuter hrun h with ⟨hc', _⟩ | ⟨hc', _⟩
    · exact absurd hc' ha
    · exact absurd hc' hc

theorem step_of_decode_err {s t : State} (hd : s.dphase = .err) (h : step s = .next t) :
    (t.dphase = .err ∧ t.derr = s.derr) ∨
    (∃ rest, s.host = .command .startDecode :: rest ∧ t.dphase = .hdr ∧ t.rdcnt = 0 ∧ t.derr = .none) ∨
    (∃ rest, s.host = .command .reset :: rest ∧ t.dphase = .idle ∧ t.derr = .none) := by
  rcases step_next_action h with ⟨moves, hc⟩ | ⟨_, _, _, rfl⟩ | ⟨rest, ⟨hh, rfl⟩ | ⟨hh, _, rfl⟩ | ⟨_, _, rfl⟩⟩
  · have hkeeps := coreStep_keepsDecodeSide (by simp [hd]) hc
    exact .inl ⟨hkeeps.dphase_eq.trans hd, hkeeps.derr_eq⟩
  · exact .inl ⟨hd, rfl⟩
  · exact .inr (.inr ⟨rest, hh, rfl, rfl⟩)
  · exact .inr (.inl ⟨rest, hh, rfl, rfl, rfl⟩)
  · exact .inl ⟨hd, rfl⟩

theorem step_of_convert_err {s t : State} (hc : s.cphase = .err) (h : step s = .next t) :
    (t.cphase = .err ∧ t.cerr = s.cerr) ∨
    (∃ rest, s.host = .command .startConvert :: rest ∧ s.imgValid = true ∧ t.cphase = .alloc ∧ t.cerr = .none) ∨
    (∃ rest, s.host = .command .reset :: rest ∧ t.cphase = .idle ∧ t.cerr = .none) := by
  rcases step_next_action h with ⟨moves, hn⟩ | ⟨_, _, _, rfl⟩ | ⟨rest, ⟨hh, rfl⟩ | ⟨_, _, rfl⟩ | ⟨hh, hen, rfl⟩⟩
  · have hkeeps := coreStep_keepsConvertSide_of_rest (by simp [hc]) (by simp [hc]) hn
    exact .inl ⟨hkeeps.cphase_eq.trans hc, hkeeps.cerr_eq⟩
  · exact .inl ⟨hc, rfl⟩
  · exact .inr (.inr ⟨rest, hh, rfl, rfl⟩)
  · exact .inl ⟨hc, rfl⟩
  · obtain ⟨hvalid, -⟩ := startConvertEnabled_iff.1 hen
    exact .inr (.inl ⟨rest, hh, hvalid, rfl, rfl⟩)

/-- Settles O23, by the action behind each step: the core's own steps keep a unit that stands in its error state. -/
theorem onlyCommandsLeaveError : Obligations.OnlyCommandsLeaveError :=
  ⟨fun _ _ => step_of_decode_err, fun _ _ => step_of_convert_err⟩

/-! ## The permuter's frame (R160, R185) -/

/-- Settles O43: with the decode engine at rest the core's step is the permuter's, a refusal among them. -/
theorem permuterLeavesDecode : Obligations.PermuterLeavesDecode := by
  intro s t hhost hhdr hpix h
  rw [step_of_no_move hhost] at h
  exact coreStep_keepsDecodeSide (not_or.2 ⟨hhdr, hpix⟩) h

/-! ## Units at rest (R197) -/

theorem coreStep_of_rest {s : State} (hd : s.dphase = .idle ∨ s.dphase = .ok ∨ s.dphase = .err)
    (hc : s.cphase = .idle ∨ s.cphase = .ok ∨ s.cphase = .err) : coreStep s = .fault .noStepEnabled := by
  rcases hd with hd | hd | hd <;> rcases hc with hc | hc | hc <;> rw [coreStep, hd, hc]

/-- Settles O24: the core has no step in either case, and a pass then holds the state. -/
theorem idleUnitsTakeNoStep : Obligations.IdleUnitsTakeNoStep := by
  intro s hd hc
  refine ⟨fun hhost => ?_, fun rest hhost => ?_⟩
  · rw [step_of_no_move hhost, coreStep_of_rest hd hc]
  · rw [step_pass hhost]
    exact coreTurn_of_fault (s := withHost rest s) (coreStep_of_rest hd hc)

end Sys2Proof.Machine
end

section
/-! The end of a decode (O26): a closed source leaves no request unanswered, so the header step and every iteration
have their step, and each iteration either emits one of the pixels that are left or ends the decode with an error. -/

namespace Sys2Proof.Machine

/-! ## The header step with a closed source (R101, R105, R107) -/

theorem readMagic_of_closed {s : State} (hclosed : s.src.closed = true) :
    readMagic s = .got () (consume 4 s) ∨
      ∃ n, readMagic s = .raised (raiseDecode .invalidMagic (consume n s)) := by
  rcases readMagicBytes_cases 4 s with ⟨bs, _, _, hr⟩ | ⟨k, _, _, _, hr⟩ | ⟨k, _, _, hun, _⟩
  · rw [readMagic, hr, Port.andThen]
    split
    · exact .inl rfl
    · exact .inr ⟨4, rfl⟩
  · exact .inr ⟨k + 1, by rw [readMagic, hr, Port.andThen]⟩
  · exact absurd hun (answer_ne_none_of_closed hclosed _)

theorem readBytes_of_closed {s : State} (hclosed : s.src.closed = true) (n : Nat) :
    (∃ bs, readBytes n s = .got bs (consume n s)) ∨
      ∃ m, readBytes n s = .raised (raiseDecode .streamExhausted (consume m s)) := by
  rcases readBytes_cases n s with ⟨bs, _, _, hr⟩ | ⟨k, _, _, _, hr⟩ | ⟨k, _, _, hun, _⟩
  · exact .inl ⟨bs, hr⟩
  · exact .inr ⟨k + 1, hr⟩
  · exact absurd hun (answer_ne_none_of_closed hclosed _)

/-- The checks either start the pixel loop or raise InvalidHeader (R105, R107). -/
theorem acceptHeader_dphase (s : State) : (acceptHeader s).dphase = .pix ∨ (acceptHeader s).dphase = .err := by
  unfold acceptHeader
  split
  · exact .inl rfl
  · exact .inr rfl

theorem headerStep_of_closed {s : State} (hclosed : s.src.closed = true) :
    ∃ t, headerStep s = .next t ∧ (t.dphase = .pix ∨ t.dphase = .err) := by
  rcases readMagic_of_closed hclosed with hmagic | ⟨n, hmagic⟩
  · rcases readBytes_of_closed (s := consume 4 s) hclosed 10 with ⟨fs, hfields⟩ | ⟨n, hfields⟩
    · exact ⟨_, headerStep_of_fields hmagic hfields, acceptHeader_dphase _⟩
    · exact ⟨_, headerStep_of_fields_raised hmagic hfields, .inr rfl⟩
  · exact ⟨_, headerStep_of_magic_raised hmagic, .inr rfl⟩

/-! ## The requests (R221) -/

/-- While the loop runs and at its end, the requests are the header's and at most five for each pixel so far. -/
theorem CoreInv.requests_le {s : State} (hs : CoreInv s) (hd : Decoded s) : s.requests ≤ 14 + 5 * s.pos := by
  obtain ⟨hrequests, -, hle⟩ := hs.reads hd
  rwa [hrequests]

/-- The iteration that raises an error makes at most the five requests of its opcode (R72). -/
theorem loopStep_err_requests {s t : State} (hhost : s.host = []) (hpix : s.dphase = .pix) (h : step s = .next t)
    (herr : t.dphase = .err) : t.requests ≤ s.requests + 5 := by
  by_cases hrun : s.run = 0
  · rw [step_of_opcodeTurn ⟨hhost, hpix, hrun⟩] at h
    rcases opcodeIteration_cases s with ⟨b1, _, i, _, _, hn⟩ | ⟨k, hk, _, _, hn⟩ | ⟨k, _, _, hn⟩
    · obtain ⟨u, hu, -, hemitted⟩ := exec_emits i (consume (opcodeLength b1) s)
      cases (hn.trans hu).symm.trans h
      exact absurd herr (hemitted.dphase_ne_err hpix)
    · cases hn.symm.trans h
      exact Nat.add_le_add_left hk s.requests
    · cases hn.symm.trans h
  · obtain ⟨u, hu, -, -, -, hemitted, -⟩ := repeatIteration s hhost hpix hrun
    cases hu.symm.trans h
    exact absurd herr (hemitted.dphase_ne_err hpix)

/-! ## The loop -/

/-- With `k` pixels left and a closed source, the decode ends within `k` iterations. -/
theorem CoreInv.run_closed {s : State} {k : Nat} (hs : CoreInv s) (hhost : s.host = []) (hd : Decoded s)
    (hclosed : s.src.closed = true) (hk : s.pos + k = s.npix) :
    ∃ j t, j ≤ k ∧ Host.Core.run Sys2Proof.core j s = .next t ∧ (t.dphase = .ok ∨ t.dphase = .err) ∧
      t.requests ≤ 14 + 5 * s.npix := by
  have hrequests := hs.requests_le hd
  induction k generalizing s with
  | zero =>
    obtain ⟨hok, -⟩ := hs.ok_of_full hd hk
    exact ⟨0, s, le_rfl, rfl, .inl hok, by omega⟩
  | succ k ih =>
    have hpix := hs.pix_of_room hd (by omega)
    obtain ⟨t, ht⟩ := loopStep_of_closed hhost hpix hclosed
    rcases loopStep_next hhost hpix ht with ⟨hemitted, ⟨hnpix, -⟩, -⟩ | ⟨-, herr⟩
    · obtain ⟨-, hhost', hsrc, -⟩ := decodeLeavesPermuter s t hhost (.inr hpix) ht
      have hinv := stepKeepsInvariant s t hs ht
      have hdt := hemitted.decoded hpix
      have hpos := hemitted.pos_eq
      obtain ⟨j, u, hj, hrun, hend, hle⟩ :=
        ih hinv (hhost'.trans hhost) hdt (hsrc ▸ hclosed) (by omega) (hinv.requests_le hdt)
      exact ⟨j + 1, u, Nat.succ_le_succ hj, (run_succ_of_step j ht).trans hrun, hend, hnpix ▸ hle⟩
    · have hlast := loopStep_err_requests hhost hpix ht herr
      exact ⟨1, t, by omega, run_succ_of_step 0 ht, .inr herr, by omega⟩

/-- Settles O26: the header step has an answer to each of its reads, and the loop ends by induction on the pixels
left. -/
theorem decodeTerminates : Obligations.DecodeTerminates := by
  refine ⟨fun s hturn hclosed => ?_, fun s hs hhost hpix hclosed => ?_⟩
  · rw [step_of_headerTurn hturn]
    exact headerStep_of_closed hclosed
  · exact hs.run_closed hhost (.inl hpix) hclosed (Nat.add_sub_of_le (hs.looping hpix).le)

end Sys2Proof.Machine
end

section
/-! RESET and power-on (O29, O36): what the command leaves, and that the power-on state, with both units at rest, meets
the three invariants. -/

namespace Sys2Proof.Machine

theorem step_reset {s : State} {rest : List HostMove} (hhost : s.host = .command .reset :: rest) :
    step s = .next (resetCommand { s with host := rest }) := by
  rw [step, nextMove, hhost]
  rfl

@[simp] theorem Memory.read_nil (a : Nat) : Memory.read [] a = none := rfl

/-- Settles O29, by the command's equation and the values of `State.reset`. -/
theorem resetCommand_spec : Obligations.ResetCommand := by
  refine ⟨fun s rest hhost => ⟨resetCommand { s with host := rest }, step_reset hhost, ?_⟩, ?_⟩
  · simp
  · simp [State.reset]

/-- With both phases IDLE, the main invariant asks only for the stores' form and for clear flags and errors (R45). -/
theorem coreInv_of_idle {s : State} (himg : Memory.wf s.img) (hbmp : Memory.wf s.bmp) (hd : s.dphase = .idle)
    (hc : s.cphase = .idle) (hv : s.imgValid = false) (he : s.derr = .none) (hbv : s.bmpValid = false)
    (hce : s.cerr = .none) : CoreInv s where
  imgForm := himg
  bmpForm := hbmp
  imgValid_iff := by simp [hv, hd]
  derr_iff := by simp [he, hd]
  bmpValid_iff := by simp [hbv, hc]
  cerr_iff := by simp [hce, hc]
  exclusive := by simp [hc]
  unread := by simp [hd]
  header := by simp [hd]
  looping := by simp [hd]
  ended := by simp [hd]
  written := by simp [hd]
  runRange := by simp [hd]
  reads := by simp [hd]
  uncopied := by simp [hc]
  copying := by simp [hc]

/-- Settles O36: after power-on both units are at rest, and each invariant speaks of a running unit or of clear flags. -/
theorem resetMeetsInvariants : Obligations.ResetMeetsInvariants := by
  obtain ⟨himg, hbmp⟩ := reset_stores_wf
  obtain ⟨-, hd, he, hv, hc, hce, hbv⟩ := resetCommand_spec
  refine ⟨coreInv_of_idle himg hbmp hd hc hv he hbv hce, cacheInv_of_rest ?_ ?_, surfaceInv_of_not_copy ?_⟩
  · simp [hd]
  · simp [hd]
  · simp [hc]

end Sys2Proof.Machine
end
